-- ==== Sys2Proof/Word.lean ====
section
/-! DEFINITION. The word types of the CS 3220 ISA: 32-bit words, bytes, 16-bit immediates and register indices. -/

namespace Sys2Proof

/-- A general register, the program counter, an address, a memory word or an instruction word: `XLEN` and `ILEN` are
both 32 bits (00_scope.md R6). -/
abbrev Word := BitVec 32

/-- One byte of memory; RAM is 8192 of them (20_memory.md R42). -/
abbrev Byte := BitVec 8

/-- The immediate field: "Immediate operands are 16 bits" (00_scope.md R5). -/
abbrev Imm := BitVec 16

/-- A register index: four bits, all 16 values legal (10_state.md R20, 30_encoding.md R78). -/
abbrev RegIdx := Fin 16

end Sys2Proof
end

