-- ==== Sys2Proof/Syntax.lean ====
section
/-! DEFINITION. The 50 instructions, one constructor per row of spec/opcode_table.json. The operand types admit exactly the
field values the encoding admits (30_encoding.md R77, R78), so no term of `Instr` is ill formed; the order of the
operands is the order of the fields in the word, from bit 31 down. -/

namespace Sys2Proof

/-- The whole instruction set (00_scope.md R2, 30_encoding.md R80). `rd` is the destination, `rs1` and `rs2` the sources,
`imm` the 16-bit immediate field as it stands in the word. -/
inductive Instr where
  -- ALU-R: 40_alu_r.md
  /-- `ADD RD,RS1,RS2`: 40_alu_r.md R101. -/
  | add (rd rs1 rs2 : RegIdx)
  /-- `SUB RD,RS1,RS2`: 40_alu_r.md R102. -/
  | sub (rd rs1 rs2 : RegIdx)
  /-- `AND RD,RS1,RS2`: 40_alu_r.md R103. -/
  | and (rd rs1 rs2 : RegIdx)
  /-- `OR RD,RS1,RS2`: 40_alu_r.md R104. -/
  | or (rd rs1 rs2 : RegIdx)
  /-- `XOR RD,RS1,RS2`: 40_alu_r.md R105. -/
  | xor (rd rs1 rs2 : RegIdx)
  /-- `NAND RD,RS1,RS2`: 40_alu_r.md R106. -/
  | nand (rd rs1 rs2 : RegIdx)
  /-- `NOR RD,RS1,RS2`: 40_alu_r.md R107. -/
  | nor (rd rs1 rs2 : RegIdx)
  /-- `XNOR RD,RS1,RS2`: 40_alu_r.md R108. -/
  | xnor (rd rs1 rs2 : RegIdx)
  -- ALU-I: 41_alu_i.md
  /-- `ADDI RD,RS1,imm`: 41_alu_i.md R121. -/
  | addi (rd rs1 : RegIdx) (imm : Imm)
  /-- `SUBI RD,RS1,imm`: 41_alu_i.md R122. -/
  | subi (rd rs1 : RegIdx) (imm : Imm)
  /-- `ANDI RD,RS1,imm`: 41_alu_i.md R123. -/
  | andi (rd rs1 : RegIdx) (imm : Imm)
  /-- `ORI RD,RS1,imm`: 41_alu_i.md R124. -/
  | ori (rd rs1 : RegIdx) (imm : Imm)
  /-- `XORI RD,RS1,imm`: 41_alu_i.md R125. -/
  | xori (rd rs1 : RegIdx) (imm : Imm)
  /-- `NANDI RD,RS1,imm`: 41_alu_i.md R126. -/
  | nandi (rd rs1 : RegIdx) (imm : Imm)
  /-- `NORI RD,RS1,imm`: 41_alu_i.md R127. -/
  | nori (rd rs1 : RegIdx) (imm : Imm)
  /-- `XNORI RD,RS1,imm`: 41_alu_i.md R128. -/
  | xnori (rd rs1 : RegIdx) (imm : Imm)
  /-- `MVHI RD,imm`: 41_alu_i.md R129. -/
  | mvhi (rd : RegIdx) (imm : Imm)
  -- Load/Store: 42_load_store.md
  /-- `LW RD,imm(RS1)`: 42_load_store.md R141. -/
  | lw (rd rs1 : RegIdx) (imm : Imm)
  /-- `SW RS2,imm(RS1)`: 42_load_store.md R142. -/
  | sw (rs1 rs2 : RegIdx) (imm : Imm)
  -- CMP-R: 43_cmp_r.md
  /-- `F RD,RS1,RS2`: 43_cmp_r.md R151. -/
  | f (rd rs1 rs2 : RegIdx)
  /-- `EQ RD,RS1,RS2`: 43_cmp_r.md R152. -/
  | eq (rd rs1 rs2 : RegIdx)
  /-- `LT RD,RS1,RS2`: 43_cmp_r.md R153. -/
  | lt (rd rs1 rs2 : RegIdx)
  /-- `LTE RD,RS1,RS2`: 43_cmp_r.md R154. -/
  | lte (rd rs1 rs2 : RegIdx)
  /-- `T RD,RS1,RS2`: 43_cmp_r.md R155. -/
  | t (rd rs1 rs2 : RegIdx)
  /-- `NE RD,RS1,RS2`: 43_cmp_r.md R156. -/
  | ne (rd rs1 rs2 : RegIdx)
  /-- `GTE RD,RS1,RS2`: 43_cmp_r.md R157. -/
  | gte (rd rs1 rs2 : RegIdx)
  /-- `GT RD,RS1,RS2`: 43_cmp_r.md R158. -/
  | gt (rd rs1 rs2 : RegIdx)
  -- CMP-I: 44_cmp_i.md
  /-- `FI RD,RS1,imm`: 44_cmp_i.md R171. -/
  | fi (rd rs1 : RegIdx) (imm : Imm)
  /-- `EQI RD,RS1,imm`: 44_cmp_i.md R172. -/
  | eqi (rd rs1 : RegIdx) (imm : Imm)
  /-- `LTI RD,RS1,imm`: 44_cmp_i.md R173. -/
  | lti (rd rs1 : RegIdx) (imm : Imm)
  /-- `LTEI RD,RS1,imm`: 44_cmp_i.md R174. -/
  | ltei (rd rs1 : RegIdx) (imm : Imm)
  /-- `TI RD,RS1,imm`: 44_cmp_i.md R175. -/
  | ti (rd rs1 : RegIdx) (imm : Imm)
  /-- `NEI RD,RS1,imm`: 44_cmp_i.md R176. -/
  | nei (rd rs1 : RegIdx) (imm : Imm)
  /-- `GTEI RD,RS1,imm`: 44_cmp_i.md R177. -/
  | gtei (rd rs1 : RegIdx) (imm : Imm)
  /-- `GTI RD,RS1,imm`: 44_cmp_i.md R178. -/
  | gti (rd rs1 : RegIdx) (imm : Imm)
  -- BRANCH: 45_branch.md
  /-- `BF RS1,RS2,imm`: 45_branch.md R192. -/
  | bf (rs1 rs2 : RegIdx) (imm : Imm)
  /-- `BEQ RS1,RS2,imm`: 45_branch.md R193. -/
  | beq (rs1 rs2 : RegIdx) (imm : Imm)
  /-- `BLT RS1,RS2,imm`: 45_branch.md R194. -/
  | blt (rs1 rs2 : RegIdx) (imm : Imm)
  /-- `BLTE RS1,RS2,imm`: 45_branch.md R195. -/
  | blte (rs1 rs2 : RegIdx) (imm : Imm)
  /-- `BEQZ RS1,imm`: 45_branch.md R196. -/
  | beqz (rs1 : RegIdx) (imm : Imm)
  /-- `BLTZ RS1,imm`: 45_branch.md R197. -/
  | bltz (rs1 : RegIdx) (imm : Imm)
  /-- `BLTEZ RS1,imm`: 45_branch.md R198. -/
  | bltez (rs1 : RegIdx) (imm : Imm)
  /-- `BT RS1,RS2,imm`: 45_branch.md R199. -/
  | bt (rs1 rs2 : RegIdx) (imm : Imm)
  /-- `BNE RS1,RS2,imm`: 45_branch.md R200. -/
  | bne (rs1 rs2 : RegIdx) (imm : Imm)
  /-- `BGTE RS1,RS2,imm`: 45_branch.md R201. -/
  | bgte (rs1 rs2 : RegIdx) (imm : Imm)
  /-- `BGT RS1,RS2,imm`: 45_branch.md R202. -/
  | bgt (rs1 rs2 : RegIdx) (imm : Imm)
  /-- `BNEZ RS1,imm`: 45_branch.md R203. -/
  | bnez (rs1 : RegIdx) (imm : Imm)
  /-- `BGTEZ RS1,imm`: 45_branch.md R204. -/
  | bgtez (rs1 : RegIdx) (imm : Imm)
  /-- `BGTZ RS1,imm`: 45_branch.md R205. -/
  | bgtz (rs1 : RegIdx) (imm : Imm)
  -- JAL: 46_jal.md
  /-- `JAL RD,imm(RS1)`: 46_jal.md R220. -/
  | jal (rd rs1 : RegIdx) (imm : Imm)
  deriving DecidableEq, Repr

/-- The mnemonic of the row an instruction stands for, as the opcode table spells it (30_encoding.md R80). -/
def Instr.mnemonic : Instr → String
  | .add _ _ _ => "ADD"
  | .sub _ _ _ => "SUB"
  | .and _ _ _ => "AND"
  | .or _ _ _ => "OR"
  | .xor _ _ _ => "XOR"
  | .nand _ _ _ => "NAND"
  | .nor _ _ _ => "NOR"
  | .xnor _ _ _ => "XNOR"
  | .addi _ _ _ => "ADDI"
  | .subi _ _ _ => "SUBI"
  | .andi _ _ _ => "ANDI"
  | .ori _ _ _ => "ORI"
  | .xori _ _ _ => "XORI"
  | .nandi _ _ _ => "NANDI"
  | .nori _ _ _ => "NORI"
  | .xnori _ _ _ => "XNORI"
  | .mvhi _ _ => "MVHI"
  | .lw _ _ _ => "LW"
  | .sw _ _ _ => "SW"
  | .f _ _ _ => "F"
  | .eq _ _ _ => "EQ"
  | .lt _ _ _ => "LT"
  | .lte _ _ _ => "LTE"
  | .t _ _ _ => "T"
  | .ne _ _ _ => "NE"
  | .gte _ _ _ => "GTE"
  | .gt _ _ _ => "GT"
  | .fi _ _ _ => "FI"
  | .eqi _ _ _ => "EQI"
  | .lti _ _ _ => "LTI"
  | .ltei _ _ _ => "LTEI"
  | .ti _ _ _ => "TI"
  | .nei _ _ _ => "NEI"
  | .gtei _ _ _ => "GTEI"
  | .gti _ _ _ => "GTI"
  | .bf _ _ _ => "BF"
  | .beq _ _ _ => "BEQ"
  | .blt _ _ _ => "BLT"
  | .blte _ _ _ => "BLTE"
  | .beqz _ _ => "BEQZ"
  | .bltz _ _ => "BLTZ"
  | .bltez _ _ => "BLTEZ"
  | .bt _ _ _ => "BT"
  | .bne _ _ _ => "BNE"
  | .bgte _ _ _ => "BGTE"
  | .bgt _ _ _ => "BGT"
  | .bnez _ _ => "BNEZ"
  | .bgtez _ _ => "BGTEZ"
  | .bgtz _ _ => "BGTZ"
  | .jal _ _ _ => "JAL"

end Sys2Proof
end

