-- ==== Sys2Proof/WellFormed.lean ====
section
/-! DEFINITION. Which words are instructions: the opcode table of 30_encoding.md R80 as data, and the check of a word
against it. An `Instr` term needs no check (its operand types are exact); what can be ill formed is a WORD, by one of
the five defects of 30_encoding.md R85, and each of them leaves the word outside every row. -/

namespace Sys2Proof

/-- One row of the table: a word `iw` is the instruction exactly when `iw &&& mask = value` (30_encoding.md R80; the
table calls the second number "match"). -/
structure OpcodeRow where
  mnemonic : String
  value : Word
  mask : Word
  deriving DecidableEq, Repr

/-- The rows of ALU-R (40_alu_r.md). -/
def aluRRows : List OpcodeRow :=
  [ ⟨"ADD", 0x00000000#32, 0x000FFFFF#32⟩,
    ⟨"SUB", 0x00000010#32, 0x000FFFFF#32⟩,
    ⟨"AND", 0x00000040#32, 0x000FFFFF#32⟩,
    ⟨"OR", 0x00000050#32, 0x000FFFFF#32⟩,
    ⟨"XOR", 0x00000060#32, 0x000FFFFF#32⟩,
    ⟨"NAND", 0x000000C0#32, 0x000FFFFF#32⟩,
    ⟨"NOR", 0x000000D0#32, 0x000FFFFF#32⟩,
    ⟨"XNOR", 0x000000E0#32, 0x000FFFFF#32⟩ ]

/-- The rows of ALU-I (41_alu_i.md). -/
def aluIRows : List OpcodeRow :=
  [ ⟨"ADDI", 0x00000008#32, 0x000000FF#32⟩,
    ⟨"SUBI", 0x00000018#32, 0x000000FF#32⟩,
    ⟨"ANDI", 0x00000048#32, 0x000000FF#32⟩,
    ⟨"ORI", 0x00000058#32, 0x000000FF#32⟩,
    ⟨"XORI", 0x00000068#32, 0x000000FF#32⟩,
    ⟨"NANDI", 0x000000C8#32, 0x000000FF#32⟩,
    ⟨"NORI", 0x000000D8#32, 0x000000FF#32⟩,
    ⟨"XNORI", 0x000000E8#32, 0x000000FF#32⟩,
    ⟨"MVHI", 0x000000B8#32, 0x0F0000FF#32⟩ ]

/-- The rows of Load/Store (42_load_store.md). -/
def loadStoreRows : List OpcodeRow :=
  [ ⟨"LW", 0x00000009#32, 0x000000FF#32⟩,
    ⟨"SW", 0x00000005#32, 0x000000FF#32⟩ ]

/-- The rows of CMP-R (43_cmp_r.md). -/
def cmpRRows : List OpcodeRow :=
  [ ⟨"F", 0x00000002#32, 0x000FFFFF#32⟩,
    ⟨"EQ", 0x00000012#32, 0x000FFFFF#32⟩,
    ⟨"LT", 0x00000022#32, 0x000FFFFF#32⟩,
    ⟨"LTE", 0x00000032#32, 0x000FFFFF#32⟩,
    ⟨"T", 0x00000082#32, 0x000FFFFF#32⟩,
    ⟨"NE", 0x00000092#32, 0x000FFFFF#32⟩,
    ⟨"GTE", 0x000000A2#32, 0x000FFFFF#32⟩,
    ⟨"GT", 0x000000B2#32, 0x000FFFFF#32⟩ ]

/-- The rows of CMP-I (44_cmp_i.md). -/
def cmpIRows : List OpcodeRow :=
  [ ⟨"FI", 0x0000000A#32, 0x000000FF#32⟩,
    ⟨"EQI", 0x0000001A#32, 0x000000FF#32⟩,
    ⟨"LTI", 0x0000002A#32, 0x000000FF#32⟩,
    ⟨"LTEI", 0x0000003A#32, 0x000000FF#32⟩,
    ⟨"TI", 0x0000008A#32, 0x000000FF#32⟩,
    ⟨"NEI", 0x0000009A#32, 0x000000FF#32⟩,
    ⟨"GTEI", 0x000000AA#32, 0x000000FF#32⟩,
    ⟨"GTI", 0x000000BA#32, 0x000000FF#32⟩ ]

/-- The rows of BRANCH (45_branch.md). -/
def branchRows : List OpcodeRow :=
  [ ⟨"BF", 0x00000006#32, 0x000000FF#32⟩,
    ⟨"BEQ", 0x00000016#32, 0x000000FF#32⟩,
    ⟨"BLT", 0x00000026#32, 0x000000FF#32⟩,
    ⟨"BLTE", 0x00000036#32, 0x000000FF#32⟩,
    ⟨"BEQZ", 0x00000056#32, 0x0F0000FF#32⟩,
    ⟨"BLTZ", 0x00000066#32, 0x0F0000FF#32⟩,
    ⟨"BLTEZ", 0x00000076#32, 0x0F0000FF#32⟩,
    ⟨"BT", 0x00000086#32, 0x000000FF#32⟩,
    ⟨"BNE", 0x00000096#32, 0x000000FF#32⟩,
    ⟨"BGTE", 0x000000A6#32, 0x000000FF#32⟩,
    ⟨"BGT", 0x000000B6#32, 0x000000FF#32⟩,
    ⟨"BNEZ", 0x000000D6#32, 0x0F0000FF#32⟩,
    ⟨"BGTEZ", 0x000000E6#32, 0x0F0000FF#32⟩,
    ⟨"BGTZ", 0x000000F6#32, 0x0F0000FF#32⟩ ]

/-- The rows of JAL (46_jal.md). -/
def jalRows : List OpcodeRow :=
  [ ⟨"JAL", 0x0000000B#32, 0x000000FF#32⟩ ]

/-- The 50 rows of the table, in its order (30_encoding.md R80). -/
def opcodeRows : List OpcodeRow :=
  aluRRows ++ aluIRows ++ loadStoreRows ++ cmpRRows ++ cmpIRows ++ branchRows ++ jalRows

/-- A word belongs to a row (30_encoding.md R80). -/
def OpcodeRow.admits (r : OpcodeRow) (w : Word) : Bool := w &&& r.mask == r.value

/-- A word is well formed when some row admits it: every other word is one of the words of 30_encoding.md R85. -/
def wellFormedWord (w : Word) : Bool := opcodeRows.any (fun r => r.admits w)

end Sys2Proof
end

