-- ==== Sys2Proof/Decode.lean ====
section
/-! DEFINITION. Decoding (30_encoding.md R87), total on any bytes and rejecting by name, and the encoder written from the
same format tables (R71 to R75, R80). The byte order of a word is decided here, once. -/

namespace Sys2Proof

/-! ### Fields of an instruction word (00_scope.md R10) -/

/-- `op = iw[3:0]`. -/
def opOf (w : Word) : BitVec 4 := w.extractLsb' 0 4

/-- `fn = iw[7:4]`. -/
def fnOf (w : Word) : BitVec 4 := w.extractLsb' 4 4

/-- `imm = iw[23:8]`. -/
def immOf (w : Word) : Imm := w.extractLsb' 8 16

/-- `z12 = iw[19:8]`, the twelve literal zeros of format R. -/
def z12Of (w : Word) : BitVec 12 := w.extractLsb' 8 12

/-- `fa = iw[31:28]` as a register index. -/
def faOf (w : Word) : RegIdx := (w.extractLsb' 28 4).toFin

/-- `fb = iw[27:24]` as a register index. -/
def fbOf (w : Word) : RegIdx := (w.extractLsb' 24 4).toFin

/-- `fc = iw[23:20]` as a register index. -/
def fcOf (w : Word) : RegIdx := (w.extractLsb' 20 4).toFin

/-! ### Decoding -/

/-- Why a word, or a list of bytes, is no instruction. The first four are the words of 30_encoding.md R85; the machine
raises `IllegalInstruction` for each of them. -/
inductive DecodeError where
  /-- R85 point 1: the primary opcode is unassigned. -/
  | unassignedOpcode (op : BitVec 4)
  /-- R85 points 2 and 3: the function code is unassigned under this opcode. -/
  | unassignedFunction (op fn : BitVec 4)
  /-- R85 point 4: format R with a bit set in `iw[19:8]`. -/
  | fillerNotZero (z12 : BitVec 12)
  /-- R85 point 5: `MVHI` or a format Z branch with a bit set in `iw[27:24]`. -/
  | slotNotZero (fb : RegIdx)
  /-- Fewer than the four bytes of an instruction (30_encoding.md R70). -/
  | truncated (bytes : Nat)
  deriving DecidableEq, Repr

/-- ALU-R by function code (30_encoding.md R81): the eight assigned codes, none for the others. -/
def aluRInstr (fn : BitVec 4) (rd rs1 rs2 : RegIdx) : Option Instr :=
  if fn = 0b0000#4 then some (.add rd rs1 rs2)
  else if fn = 0b0001#4 then some (.sub rd rs1 rs2)
  else if fn = 0b0100#4 then some (.and rd rs1 rs2)
  else if fn = 0b0101#4 then some (.or rd rs1 rs2)
  else if fn = 0b0110#4 then some (.xor rd rs1 rs2)
  else if fn = 0b1100#4 then some (.nand rd rs1 rs2)
  else if fn = 0b1101#4 then some (.nor rd rs1 rs2)
  else if fn = 0b1110#4 then some (.xnor rd rs1 rs2)
  else none

/-- ALU-I but `MVHI` by function code (30_encoding.md R81); `MVHI`, code 1011, has its own format. -/
def aluIInstr (fn : BitVec 4) (rd rs1 : RegIdx) (imm : Imm) : Option Instr :=
  if fn = 0b0000#4 then some (.addi rd rs1 imm)
  else if fn = 0b0001#4 then some (.subi rd rs1 imm)
  else if fn = 0b0100#4 then some (.andi rd rs1 imm)
  else if fn = 0b0101#4 then some (.ori rd rs1 imm)
  else if fn = 0b0110#4 then some (.xori rd rs1 imm)
  else if fn = 0b1100#4 then some (.nandi rd rs1 imm)
  else if fn = 0b1101#4 then some (.nori rd rs1 imm)
  else if fn = 0b1110#4 then some (.xnori rd rs1 imm)
  else none

/-- CMP-R by function code (30_encoding.md R82). -/
def cmpRInstr (fn : BitVec 4) (rd rs1 rs2 : RegIdx) : Option Instr :=
  if fn = 0b0000#4 then some (.f rd rs1 rs2)
  else if fn = 0b0001#4 then some (.eq rd rs1 rs2)
  else if fn = 0b0010#4 then some (.lt rd rs1 rs2)
  else if fn = 0b0011#4 then some (.lte rd rs1 rs2)
  else if fn = 0b1000#4 then some (.t rd rs1 rs2)
  else if fn = 0b1001#4 then some (.ne rd rs1 rs2)
  else if fn = 0b1010#4 then some (.gte rd rs1 rs2)
  else if fn = 0b1011#4 then some (.gt rd rs1 rs2)
  else none

/-- CMP-I by function code (30_encoding.md R82). -/
def cmpIInstr (fn : BitVec 4) (rd rs1 : RegIdx) (imm : Imm) : Option Instr :=
  if fn = 0b0000#4 then some (.fi rd rs1 imm)
  else if fn = 0b0001#4 then some (.eqi rd rs1 imm)
  else if fn = 0b0010#4 then some (.lti rd rs1 imm)
  else if fn = 0b0011#4 then some (.ltei rd rs1 imm)
  else if fn = 0b1000#4 then some (.ti rd rs1 imm)
  else if fn = 0b1001#4 then some (.nei rd rs1 imm)
  else if fn = 0b1010#4 then some (.gtei rd rs1 imm)
  else if fn = 0b1011#4 then some (.gti rd rs1 imm)
  else none

/-- The two-register branches by function code, `fn[2]` = 0 (30_encoding.md R83). -/
def branchInstr (fn : BitVec 4) (rs1 rs2 : RegIdx) (imm : Imm) : Option Instr :=
  if fn = 0b0000#4 then some (.bf rs1 rs2 imm)
  else if fn = 0b0001#4 then some (.beq rs1 rs2 imm)
  else if fn = 0b0010#4 then some (.blt rs1 rs2 imm)
  else if fn = 0b0011#4 then some (.blte rs1 rs2 imm)
  else if fn = 0b1000#4 then some (.bt rs1 rs2 imm)
  else if fn = 0b1001#4 then some (.bne rs1 rs2 imm)
  else if fn = 0b1010#4 then some (.bgte rs1 rs2 imm)
  else if fn = 0b1011#4 then some (.bgt rs1 rs2 imm)
  else none

/-- The compare-with-zero branches by function code, `fn[2]` = 1; 0100 and 1100 are unassigned (30_encoding.md R83). -/
def branchZInstr (fn : BitVec 4) (rs1 : RegIdx) (imm : Imm) : Option Instr :=
  if fn = 0b0101#4 then some (.beqz rs1 imm)
  else if fn = 0b0110#4 then some (.bltz rs1 imm)
  else if fn = 0b0111#4 then some (.bltez rs1 imm)
  else if fn = 0b1101#4 then some (.bnez rs1 imm)
  else if fn = 0b1110#4 then some (.bgtez rs1 imm)
  else if fn = 0b1111#4 then some (.bgtz rs1 imm)
  else none
/-- The instruction of an assigned function code, or the rejection of an unassigned one. -/
def orUnassigned (w : Word) (i : Option Instr) : Except DecodeError Instr :=
  match i with
  | some j => .ok j
  | none => .error (.unassignedFunction (opOf w) (fnOf w))

/-- Format R: `iw[19:8]` must be zero (30_encoding.md R71). -/
def requireFiller (w : Word) (i : Except DecodeError Instr) : Except DecodeError Instr :=
  if z12Of w = 0#12 then i else .error (.fillerNotZero (z12Of w))

/-- Formats U and Z: `iw[27:24]` must be zero (30_encoding.md R73, R75). -/
def requireSlot (w : Word) (i : Except DecodeError Instr) : Except DecodeError Instr :=
  if fbOf w = 0 then i else .error (.slotNotZero (fbOf w))

/-- The decoding procedure of 30_encoding.md R87, case by case. -/
def decodeWord (w : Word) : Except DecodeError Instr :=
  if opOf w = 0b0000#4 then
    requireFiller w (orUnassigned w (aluRInstr (fnOf w) (faOf w) (fbOf w) (fcOf w)))
  else if opOf w = 0b0010#4 then
    requireFiller w (orUnassigned w (cmpRInstr (fnOf w) (faOf w) (fbOf w) (fcOf w)))
  else if opOf w = 0b1000#4 then
    if fnOf w = 0b1011#4 then requireSlot w (.ok (.mvhi (faOf w) (immOf w)))
    else orUnassigned w (aluIInstr (fnOf w) (faOf w) (fbOf w) (immOf w))
  else if opOf w = 0b1010#4 then
    orUnassigned w (cmpIInstr (fnOf w) (faOf w) (fbOf w) (immOf w))
  else if opOf w = 0b1001#4 then
    orUnassigned w (if fnOf w = 0b0000#4 then some (.lw (faOf w) (fbOf w) (immOf w)) else none)
  else if opOf w = 0b0101#4 then
    orUnassigned w (if fnOf w = 0b0000#4 then some (.sw (faOf w) (fbOf w) (immOf w)) else none)
  else if opOf w = 0b0110#4 then
    if (fnOf w).getLsbD 2 = false then
      orUnassigned w (branchInstr (fnOf w) (faOf w) (fbOf w) (immOf w))
    else
      match branchZInstr (fnOf w) (faOf w) (immOf w) with
      | some i => requireSlot w (.ok i)
      | none => .error (.unassignedFunction (opOf w) (fnOf w))
  else if opOf w = 0b1011#4 then
    orUnassigned w (if fnOf w = 0b0000#4 then some (.jal (faOf w) (fbOf w) (immOf w)) else none)
  else .error (.unassignedOpcode (opOf w))

/-! ### Byte order (20_memory.md R43): byte `k` of a word is bits `8k+7 .. 8k` -/

/-- The four bytes of a word, the byte of the lowest address first. -/
def bytesOfWord (w : Word) : List Byte :=
  [w.extractLsb' 0 8, w.extractLsb' 8 8, w.extractLsb' 16 8, w.extractLsb' 24 8]

/-- The word of four bytes, `b0` at the lowest address. -/
def wordOfBytes (b0 b1 b2 b3 : Byte) : Word := b3 ++ b2 ++ b1 ++ b0

/-- Decode from bytes, lowest address first: the instruction and the bytes after it. -/
def decodeBytes : List Byte → Except DecodeError (Instr × List Byte)
  | b0 :: b1 :: b2 :: b3 :: rest =>
    match decodeWord (wordOfBytes b0 b1 b2 b3) with
    | .ok i => .ok (i, rest)
    | .error e => .error e
  | short => .error (.truncated short.length)

/-- The instruction word of a table word of `nbits` bits: the bits above `nbits` are zero. -/
def tableWord (nbits w : Nat) : Word := BitVec.ofNat 32 (w % 2 ^ nbits)

/-- The instruction read from an instruction whose bits are `w`, laid out as bytes as the hardware stores them. -/
def decodeTableWord (nbits w : Nat) : Option Instr :=
  match decodeBytes (bytesOfWord (tableWord nbits w)) with
  | .ok (i, _) => some i
  | .error _ => none

/-! ### Encoding -/

/-- A register index as its four bits. -/
def regBits (r : RegIdx) : BitVec 4 := BitVec.ofFin r

/-- Format R: `fa fb fc 000000000000 fn op` (30_encoding.md R71). -/
def packR (fa fb fc : RegIdx) (fn op : BitVec 4) : Word :=
  regBits fa ++ regBits fb ++ regBits fc ++ 0#12 ++ fn ++ op

/-- Formats I and S: `fa fb imm fn op` (30_encoding.md R72, R74). -/
def packI (fa fb : RegIdx) (imm : Imm) (fn op : BitVec 4) : Word :=
  regBits fa ++ regBits fb ++ imm ++ fn ++ op

/-- Formats U and Z: `fa 0000 imm fn op` (30_encoding.md R73, R75). -/
def packU (fa : RegIdx) (imm : Imm) (fn op : BitVec 4) : Word :=
  regBits fa ++ 0#4 ++ imm ++ fn ++ op

/-- The word of an instruction, from the `iword` strings of 30_encoding.md R80 (95_test_vectors.md 1.2). -/
def encode : Instr → Word
  | .add rd rs1 rs2 => packR rd rs1 rs2 0b0000#4 0b0000#4
  | .sub rd rs1 rs2 => packR rd rs1 rs2 0b0001#4 0b0000#4
  | .and rd rs1 rs2 => packR rd rs1 rs2 0b0100#4 0b0000#4
  | .or rd rs1 rs2 => packR rd rs1 rs2 0b0101#4 0b0000#4
  | .xor rd rs1 rs2 => packR rd rs1 rs2 0b0110#4 0b0000#4
  | .nand rd rs1 rs2 => packR rd rs1 rs2 0b1100#4 0b0000#4
  | .nor rd rs1 rs2 => packR rd rs1 rs2 0b1101#4 0b0000#4
  | .xnor rd rs1 rs2 => packR rd rs1 rs2 0b1110#4 0b0000#4
  | .addi rd rs1 imm => packI rd rs1 imm 0b0000#4 0b1000#4
  | .subi rd rs1 imm => packI rd rs1 imm 0b0001#4 0b1000#4
  | .andi rd rs1 imm => packI rd rs1 imm 0b0100#4 0b1000#4
  | .ori rd rs1 imm => packI rd rs1 imm 0b0101#4 0b1000#4
  | .xori rd rs1 imm => packI rd rs1 imm 0b0110#4 0b1000#4
  | .nandi rd rs1 imm => packI rd rs1 imm 0b1100#4 0b1000#4
  | .nori rd rs1 imm => packI rd rs1 imm 0b1101#4 0b1000#4
  | .xnori rd rs1 imm => packI rd rs1 imm 0b1110#4 0b1000#4
  | .mvhi rd imm => packU rd imm 0b1011#4 0b1000#4
  | .lw rd rs1 imm => packI rd rs1 imm 0b0000#4 0b1001#4
  | .sw rs1 rs2 imm => packI rs1 rs2 imm 0b0000#4 0b0101#4
  | .f rd rs1 rs2 => packR rd rs1 rs2 0b0000#4 0b0010#4
  | .eq rd rs1 rs2 => packR rd rs1 rs2 0b0001#4 0b0010#4
  | .lt rd rs1 rs2 => packR rd rs1 rs2 0b0010#4 0b0010#4
  | .lte rd rs1 rs2 => packR rd rs1 rs2 0b0011#4 0b0010#4
  | .t rd rs1 rs2 => packR rd rs1 rs2 0b1000#4 0b0010#4
  | .ne rd rs1 rs2 => packR rd rs1 rs2 0b1001#4 0b0010#4
  | .gte rd rs1 rs2 => packR rd rs1 rs2 0b1010#4 0b0010#4
  | .gt rd rs1 rs2 => packR rd rs1 rs2 0b1011#4 0b0010#4
  | .fi rd rs1 imm => packI rd rs1 imm 0b0000#4 0b1010#4
  | .eqi rd rs1 imm => packI rd rs1 imm 0b0001#4 0b1010#4
  | .lti rd rs1 imm => packI rd rs1 imm 0b0010#4 0b1010#4
  | .ltei rd rs1 imm => packI rd rs1 imm 0b0011#4 0b1010#4
  | .ti rd rs1 imm => packI rd rs1 imm 0b1000#4 0b1010#4
  | .nei rd rs1 imm => packI rd rs1 imm 0b1001#4 0b1010#4
  | .gtei rd rs1 imm => packI rd rs1 imm 0b1010#4 0b1010#4
  | .gti rd rs1 imm => packI rd rs1 imm 0b1011#4 0b1010#4
  | .bf rs1 rs2 imm => packI rs1 rs2 imm 0b0000#4 0b0110#4
  | .beq rs1 rs2 imm => packI rs1 rs2 imm 0b0001#4 0b0110#4
  | .blt rs1 rs2 imm => packI rs1 rs2 imm 0b0010#4 0b0110#4
  | .blte rs1 rs2 imm => packI rs1 rs2 imm 0b0011#4 0b0110#4
  | .beqz rs1 imm => packU rs1 imm 0b0101#4 0b0110#4
  | .bltz rs1 imm => packU rs1 imm 0b0110#4 0b0110#4
  | .bltez rs1 imm => packU rs1 imm 0b0111#4 0b0110#4
  | .bt rs1 rs2 imm => packI rs1 rs2 imm 0b1000#4 0b0110#4
  | .bne rs1 rs2 imm => packI rs1 rs2 imm 0b1001#4 0b0110#4
  | .bgte rs1 rs2 imm => packI rs1 rs2 imm 0b1010#4 0b0110#4
  | .bgt rs1 rs2 imm => packI rs1 rs2 imm 0b1011#4 0b0110#4
  | .bnez rs1 imm => packU rs1 imm 0b1101#4 0b0110#4
  | .bgtez rs1 imm => packU rs1 imm 0b1110#4 0b0110#4
  | .bgtz rs1 imm => packU rs1 imm 0b1111#4 0b0110#4
  | .jal rd rs1 imm => packI rd rs1 imm 0b0000#4 0b1011#4

end Sys2Proof
end

