-- ==== Sys2Proof/Config.lean ====
section
/-! DEFINITION. What the one implementation fixes (RAM size, reset address) and the free values of the machine: what
its two input devices show once the inputs held in State are used up. -/

namespace Sys2Proof.Config

/-- `RAM_WORDS`: 2048 words of 32 bits (00_scope.md R6, 20_memory.md R42). -/
def ramWords : Nat := 2048

/-- The first byte address above RAM, 0x00002000: 2048 words of four bytes (20_memory.md R42). -/
def ramBytes : Nat := 8192

/-- `RESET_PC`: "PC must start at (byte address) 0x40" (10_state.md R28). -/
def resetPc : Word := 0x00000040#32

/-- FREE VALUE, no body: what the n-th `KEY` load beyond the inputs held in State samples. "each `LW` from this address
may return any value in 0 .. 0xF" (20_memory.md R53, 92_eei_decisions.md D19; log entry 3). -/
opaque keyInput : Nat → BitVec 4

/-- FREE VALUE, no body: what the n-th `SWITCH` load beyond the inputs held in State samples. "each `LW` from this
address may return any value in 0 .. 0x3FF" (20_memory.md R54, 92_eei_decisions.md D19; log entry 3). -/
opaque switchInput : Nat → BitVec 10

end Sys2Proof.Config
end

