-- ==== Sys2Proof/Machine/State.lean ====
section
/-! DEFINITION. The machine's state as plain data, the reasons a step can stop, and the state after reset. -/

namespace Sys2Proof.Machine

/-- RAM as byte cells in one canonical form, `Memory.wf` of Machine/Ops.lean: addresses strictly rising. An address that
is not listed holds no value (10_state.md R31: "a word the image does not define holds no defined value"; log entries 4
and 5). -/
abbrev Memory := List Host.Cell

/-- One store to an output register, with the bits the register keeps (20_memory.md R50 to R52). -/
inductive OutputEvent where
  /-- A store to 0xF0000000. -/
  | hex (v : BitVec 16)
  /-- A store to 0xF0000004. -/
  | ledr (v : BitVec 10)
  /-- A store to 0xF0000008. -/
  | ledg (v : BitVec 8)
  deriving DecidableEq, Repr

/-- The whole state. The spec's own: 16 general registers, the program counter, RAM, the stored-to marks and the three
output registers (10_state.md R20, R24, R31, R32; 20_memory.md R47). The model's own: the record of the stores to the
output registers (20_memory.md R56) and the device inputs still to come (10_state.md R33). There are no flags, no
control registers and no hidden state (R29, R30, R34). -/
structure State where
  /-- `R0` .. `R15`, none of them hardwired (R20, R21). -/
  regs : Vector Word 16
  /-- The byte address of the instruction being executed (R24). -/
  pc : Word
  /-- RAM, byte addresses 0x0000 .. 0x1FFF (R31; 20_memory.md R42). -/
  mem : Memory
  /-- The indices of the RAM words `SW` has written since reset, strictly rising (20_memory.md R45, R47). -/
  stored : List Nat
  /-- The HEX display register (20_memory.md R50). -/
  hex : BitVec 16
  /-- The red LED register (20_memory.md R51). -/
  ledr : BitVec 10
  /-- The green LED register (20_memory.md R52). -/
  ledg : BitVec 8
  /-- The values stored to the output registers since reset, oldest first: "the program's observable output"
  (20_memory.md R56; log entry 17). -/
  outputs : List OutputEvent
  /-- What the next loads from `KEY` will sample, next first (20_memory.md R53; log entry 3). -/
  keyQueue : List (BitVec 4)
  /-- What the next loads from `SWITCH` will sample, next first (20_memory.md R54; log entry 3). -/
  switchQueue : List (BitVec 10)
  /-- How many `KEY` loads were answered by the free value `Config.keyInput` (log entry 3). -/
  keyDraws : Nat
  /-- How many `SWITCH` loads were answered by the free value `Config.switchInput` (log entry 3). -/
  switchDraws : Nat
  deriving DecidableEq, Repr

/-- Which data access an `UnmappedAccess` was (60_exceptions.md R262). -/
inductive AccessKind where
  | load
  | store
  deriving DecidableEq, Repr

/-- The seven model faults of 60_exceptions.md R262. Each is terminal, leaves no state behind it (R264), and is SAFE: the
model refuses a run that some real processor might continue. -/
inductive Fault where
  /-- Raised by a fetch with `pc[1:0] != 0` (20_memory.md R45). Safe. -/
  | misalignedFetch (pc : Word)
  /-- Raised by a fetch with `pc >= 0x00002000` (20_memory.md R45). Safe. -/
  | unmappedFetch (pc : Word)
  /-- Raised by a fetch or `LW` from a RAM word neither in the image nor stored to (20_memory.md R45, R46). Safe. -/
  | undefinedRead (addr : Word)
  /-- Raised by a fetch from a RAM word that `SW` has written since reset (20_memory.md R45, R59). Safe. -/
  | fetchAfterStore (pc : Word)
  /-- Raised by the step when the fetched word is none of the 50 instructions (30_encoding.md R85). Safe. -/
  | illegalInstruction (pc iw : Word)
  /-- Raised by `LW` and `SW` when `addr[1:0] != 0` (20_memory.md R44). Safe. -/
  | misalignedAccess (addr : Word)
  /-- Raised by `LW` and `SW` at an address with no meaning for that access (20_memory.md R41, R55). Safe. -/
  | unmappedAccess (addr : Word) (kind : AccessKind)
  deriving DecidableEq, Repr

/-- Why an instruction has no meaning in the model. -/
inductive Refusal where
  /-- Raised by `exec` for an instruction not modelled yet; every instruction of this hardware is modelled, so no arm
  raises it. Safe. -/
  | notModelled (mnemonic : String)
  deriving DecidableEq, Repr

/-- What the spec leaves open about the machine's start (00_scope.md R6, 92_eei_decisions.md D12, D13, D19): claims about
every real board quantify over it. -/
structure Boot where
  /-- `reg_init`: the register contents at reset (10_state.md R23). -/
  regInit : Vector Word 16
  /-- The RAM image the loader placed (70_reset_and_hazards.md R293, R300). -/
  image : Memory
  /-- `hex`, `ledr`, `ledg` before the first store to each (10_state.md R32). -/
  hexInit : BitVec 16
  ledrInit : BitVec 10
  ledgInit : BitVec 8
  /-- The first values of the input streams (20_memory.md R53, R54). -/
  keyInputs : List (BitVec 4)
  switchInputs : List (BitVec 10)
  deriving DecidableEq, Repr

/-- The state after reset for every start the spec allows (70_reset_and_hazards.md R291): `pc` is 0x40, no stored-to mark
is set, nothing has been output. -/
def State.boot (b : Boot) : State where
  regs := b.regInit
  pc := Config.resetPc
  mem := b.image
  stored := []
  hex := b.hexInit
  ledr := b.ledrInit
  ledg := b.ledgInit
  outputs := []
  keyQueue := b.keyInputs
  switchQueue := b.switchInputs
  keyDraws := 0
  switchDraws := 0

/-- The start the model names where the spec names none: registers and output registers zero (DESIGN CHOICE, unsafe, log
entries 1 and 2), no image loaded (log entry 6), no inputs written out (log entry 3). -/
def Boot.blank : Boot where
  regInit := Vector.replicate 16 0#32
  image := []
  hexInit := 0#16
  ledrInit := 0#10
  ledgInit := 0#8
  keyInputs := []
  switchInputs := []

/-- The machine right after reset, with nothing placed in memory. -/
def State.reset : State := State.boot Boot.blank

end Sys2Proof.Machine
end

