-- ==== Sys2Proof/Machine/Ops.lean ====
section
/-! DEFINITION. The named operations over registers, memory and devices that every meaning is written with, and the one way
a step stops. Exceptions: the hardware has none, so there is none to take and none to return from (60_exceptions.md R260,
R264, R265); `raise` is the model's stop. -/

namespace Sys2Proof.Machine

/-! ### Stopping -/

/-- `raise <Fault>`: the model stops, nothing is saved and nothing is written (60_exceptions.md R262, R264). -/
def raise (f : Fault) : Host.Outcome State Fault Refusal := .fault f

/-! ### General registers and the program counter -/

/-- `x[i]`: none of the 16 registers is hardwired (10_state.md R21). -/
def State.readReg (s : State) (i : RegIdx) : Word := s.regs.get i

/-- `x[i] <- v` (10_state.md R21). -/
def State.writeReg (s : State) (i : RegIdx) (v : Word) : State := { s with regs := s.regs.set i.val v i.isLt }

/-- `pc <- t`: the next instruction is fetched from `t` (00_scope.md R9). -/
def State.setPc (s : State) (t : Word) : State := { s with pc := t }

/-- The address of the next sequential instruction, `pc + 4` modulo 2^32 (10_state.md R24, R25). -/
def State.nextPc (s : State) : Word := s.pc + 4#32

/-- The end of an instruction that writes one register and goes on: all reads are done, then the two writes
(10_state.md R25, R27). -/
def retire (rd : RegIdx) (v : Word) (s : State) : Host.Outcome State Fault Refusal :=
  .next ((s.writeReg rd v).setPc s.nextPc)

/-! ### Memory as byte cells -/

/-- The canonical form: addresses strictly rising, so equal memories are equal lists. An unlisted address holds no value,
so no entry can equal what an unlisted address reads as. -/
abbrev Memory.wf (m : Memory) : Prop := m.Pairwise (fun x y => x.1 < y.1)

/-- The byte at an address; none where nothing was loaded or stored (20_memory.md R46, log entry 4). -/
def Memory.readByte : Memory → Nat → Option Byte
  | [], _ => none
  | (k, b) :: m, a => if k = a then some b else Memory.readByte m a

/-- Write one byte, keeping the canonical form. -/
def Memory.writeByte : Memory → Nat → Byte → Memory
  | [], a, v => [(a, v)]
  | (k, b) :: m, a, v =>
    if a < k then (a, v) :: (k, b) :: m
    else if a = k then (a, v) :: m
    else (k, b) :: Memory.writeByte m a v

/-- The word whose lowest byte is at `a`, little-endian; none unless all four bytes hold a value (20_memory.md R43, R48). -/
def Memory.readWord (m : Memory) (a : Nat) : Option Word :=
  match m.readByte a, m.readByte (a + 1), m.readByte (a + 2), m.readByte (a + 3) with
  | some b0, some b1, some b2, some b3 => some (wordOfBytes b0 b1 b2 b3)
  | _, _, _, _ => none

/-- Write bytes at rising addresses from `a`. -/
def Memory.writeBytes (m : Memory) (a : Nat) : List Byte → Memory
  | [] => m
  | b :: bs => (m.writeByte a b).writeBytes (a + 1) bs

/-- Write the word whose lowest byte is at `a`, little-endian (20_memory.md R43, R48). -/
def Memory.writeWord (m : Memory) (a : Nat) (v : Word) : Memory := m.writeBytes a (bytesOfWord v)

/-! ### Addresses -/

/-- `addr[1:0] != 0`: no word starts there (20_memory.md R44, R45). -/
def misaligned (a : Word) : Bool := a.extractLsb' 0 2 != 0#2

/-- `addr[12:2]`, the index of the RAM word at a RAM address (20_memory.md R43). -/
def wordIndex (a : Word) : Nat := a.toNat / 4

/-- What stands at a byte address (20_memory.md R41). -/
inductive Region where
  | ram
  | hex
  | ledr
  | ledg
  | key
  | switch
  | unmapped
  deriving DecidableEq, Repr

/-- The address map (20_memory.md R41, 60_exceptions.md R269). Everything the table calls "nothing defined" is unmapped,
0xF000000C among them; RAM does not repeat (20_memory.md R42). -/
def regionOf (a : Word) : Region :=
  if a.toNat < Config.ramBytes then .ram
  else if a = 0xF0000000#32 then .hex
  else if a = 0xF0000004#32 then .ledr
  else if a = 0xF0000008#32 then .ledg
  else if a = 0xF0000010#32 then .key
  else if a = 0xF0000014#32 then .switch
  else .unmapped

/-! ### Stored-to marks -/

/-- Mark a word index, keeping the list strictly rising (20_memory.md R47). -/
def insertMark : List Nat → Nat → List Nat
  | [], i => [i]
  | k :: l, i => if i < k then i :: k :: l else if i = k then k :: l else k :: insertMark l i

/-- Remove a mark: what loading a word afresh does to it, for `State.withFetchWord` only (log entry 6). -/
def removeMark (l : List Nat) (i : Nat) : List Nat := l.filter (fun k => k != i)

/-! ### Devices -/

/-- Sample `KEY`: the next written-out input, else the free value of this draw (20_memory.md R53, log entry 3). -/
def drawKey (s : State) : BitVec 4 × State :=
  match s.keyQueue with
  | v :: rest => (v, { s with keyQueue := rest })
  | [] => (Config.keyInput s.keyDraws, { s with keyDraws := s.keyDraws + 1 })

/-- Sample `SWITCH`: the next written-out input, else the free value of this draw (20_memory.md R54, log entry 3). -/
def drawSwitch (s : State) : BitVec 10 × State :=
  match s.switchQueue with
  | v :: rest => (v, { s with switchQueue := rest })
  | [] => (Config.switchInput s.switchDraws, { s with switchDraws := s.switchDraws + 1 })

/-- `hex <- v[15:0]`, bits 31..16 without effect (20_memory.md R50). -/
def writeHex (v : Word) (s : State) : State :=
  { s with hex := v.extractLsb' 0 16, outputs := s.outputs ++ [.hex (v.extractLsb' 0 16)] }

/-- `ledr <- v[9:0]`, bits 31..10 without effect (20_memory.md R51). -/
def writeLedr (v : Word) (s : State) : State :=
  { s with ledr := v.extractLsb' 0 10, outputs := s.outputs ++ [.ledr (v.extractLsb' 0 10)] }

/-- `ledg <- v[7:0]`, bits 31..8 without effect (20_memory.md R52). -/
def writeLedg (v : Word) (s : State) : State :=
  { s with ledg := v.extractLsb' 0 8, outputs := s.outputs ++ [.ledg (v.extractLsb' 0 8)] }

/-- `ram[addr[12:2]] <- v`, and the word is marked as stored-to (20_memory.md R47). -/
def writeRam (a v : Word) (s : State) : State :=
  { s with mem := s.mem.writeWord a.toNat v, stored := insertMark s.stored (wordIndex a) }

/-! ### The three accesses -/

/-- `MemRead(addr, 4)` (20_memory.md R46): the value loaded and the state, in which only a device input has moved on. The
checks stand in the order of 60_exceptions.md R263. -/
def memRead (a : Word) (s : State) : Except Fault (Word × State) :=
  if misaligned a then .error (.misalignedAccess a)
  else
    match regionOf a with
    | .ram =>
      match s.mem.readWord a.toNat with
      | some v => .ok (v, s)
      | none => .error (.undefinedRead a)
    | .key => .ok ((drawKey s).1.setWidth 32, (drawKey s).2)
    | .switch => .ok ((drawSwitch s).1.setWidth 32, (drawSwitch s).2)
    | .hex | .ledr | .ledg | .unmapped => .error (.unmappedAccess a .load)

/-- `MemWrite(addr, 4, v)` (20_memory.md R47). -/
def memWrite (a v : Word) (s : State) : Except Fault State :=
  if misaligned a then .error (.misalignedAccess a)
  else
    match regionOf a with
    | .ram => .ok (writeRam a v s)
    | .hex => .ok (writeHex v s)
    | .ledr => .ok (writeLedr v s)
    | .ledg => .ok (writeLedg v s)
    | .key | .switch | .unmapped => .error (.unmappedAccess a .store)

/-- `fetch(pc)` (20_memory.md R45), its four checks in the order of 60_exceptions.md R263. -/
def fetch (s : State) : Except Fault Word :=
  if misaligned s.pc then .error (.misalignedFetch s.pc)
  else if Config.ramBytes ≤ s.pc.toNat then .error (.unmappedFetch s.pc)
  else
    match s.mem.readWord s.pc.toNat with
    | none => .error (.undefinedRead s.pc)
    | some iw => if wordIndex s.pc ∈ s.stored then .error (.fetchAfterStore s.pc) else .ok iw

/-- Place a word at RAM address `a` from outside the machine, as the loader does before reset: a load is no `SW`, so it
leaves no stored-to mark (70_reset_and_hazards.md R300, log entry 6). -/
def loadWordAt (a v : Word) (s : State) : State :=
  { s with mem := s.mem.writeWord a.toNat v, stored := removeMark s.stored (wordIndex a) }

/-- A `pc` at which RAM can hold an instruction (20_memory.md R45). -/
def fetchable (pc : Word) : Bool := !misaligned pc && pc.toNat < Config.ramBytes

/-- Put an instruction word where the next fetch takes it; a `pc` that no fetch can use is first set back to 0x40
(log entry 6). -/
def placeAtFetch (v : Word) (s : State) : State :=
  let s' := if fetchable s.pc then s else s.setPc Config.resetPc
  loadWordAt s'.pc v s'

end Sys2Proof.Machine
end

