-- ==== Sys2Proof/Machine/Operands.lean ====
section
/-! DEFINITION. The operand forms: immediates, effective addresses and targets (30_encoding.md R77), and the arithmetic and
logic operations the ALU groups share (40_alu_r.md R100, 41_alu_i.md R120). -/

namespace Sys2Proof.Machine

/-! ### Immediates -/

/-- `sext_32(imm)`: `imm[15]` copied into bits 31..16 (00_scope.md R9). -/
def sext32 (imm : Imm) : Word := imm.signExtend 32

/-- `4 * sext_32(imm)`, a displacement in bytes counted in words, the two top bits lost (00_scope.md R9, 30_encoding.md R77). -/
def wordDisplacement (imm : Imm) : Word := sext32 imm <<< 2

/-- `{imm, 0x0000}`: the immediate in bits 31..16, zeros below (41_alu_i.md R129, log entry 11). -/
def highHalf (imm : Imm) : Word := imm ++ 0#16

/-! ### Addresses and targets, all modulo 2^32 (40_alu_r.md R109) -/

/-- `ea = x[rs1] + sext_32(imm)`; the base register keeps its value (42_load_store.md R140). -/
def effectiveAddress (rs1 : RegIdx) (imm : Imm) (s : State) : Word := s.readReg rs1 + sext32 imm

/-- `pc + 4 + 4 * sext_32(imm)`, `pc` the branch's own address (45_branch.md R190). -/
def branchTarget (pc : Word) (imm : Imm) : Word := pc + 4#32 + wordDisplacement imm

/-- `x[rs1] + 4 * sext_32(imm)`, `base` the register's value before the link is written (46_jal.md R220). -/
def jumpTarget (base : Word) (imm : Imm) : Word := base + wordDisplacement imm

/-! ### ALU operations: the plain meaning of the mnemonics (40_alu_r.md R100, log entry 15) -/

/-- Sum modulo 2^32 (40_alu_r.md R101). -/
def aluAdd (a b : Word) : Word := a + b

/-- `a` minus `b` modulo 2^32 (40_alu_r.md R102). -/
def aluSub (a b : Word) : Word := a - b

/-- Bitwise AND (40_alu_r.md R103). -/
def aluAnd (a b : Word) : Word := a &&& b

/-- Bitwise OR (40_alu_r.md R104). -/
def aluOr (a b : Word) : Word := a ||| b

/-- Bitwise XOR (40_alu_r.md R105). -/
def aluXor (a b : Word) : Word := a ^^^ b

/-- Complement of AND (40_alu_r.md R106). -/
def aluNand (a b : Word) : Word := ~~~(a &&& b)

/-- Complement of OR (40_alu_r.md R107). -/
def aluNor (a b : Word) : Word := ~~~(a ||| b)

/-- Complement of XOR (40_alu_r.md R108). -/
def aluXnor (a b : Word) : Word := ~~~(a ^^^ b)

/-! ### Operand forms -/

/-- Two registers in, one out: both sources are read before the write (40_alu_r.md R100, 43_cmp_r.md R150). -/
def binaryRR (op : Word → Word → Word) (rd rs1 rs2 : RegIdx) (s : State) : Host.Outcome State Fault Refusal :=
  retire rd (op (s.readReg rs1) (s.readReg rs2)) s

/-- A register and the sign-extended immediate in, one register out (41_alu_i.md R120, 44_cmp_i.md R170). -/
def binaryRI (op : Word → Word → Word) (rd rs1 : RegIdx) (imm : Imm) (s : State) : Host.Outcome State Fault Refusal :=
  retire rd (op (s.readReg rs1) (sext32 imm)) s

end Sys2Proof.Machine
end

