-- ==== Sys2Proof/Machine/AluI.lean ====
section
/-! DEFINITION. The ALU-I group (41_alu_i.md R120): the second operand is the sign-extended immediate, for the logical
operations too; and `MVHI`. -/

namespace Sys2Proof.Machine

/-- `ADDI`: `x[rd] <- x[rs1] + sext_32(imm)` (41_alu_i.md R121). -/
def execAddi (rd rs1 : RegIdx) (imm : Imm) (s : State) : Host.Outcome State Fault Refusal :=
  binaryRI aluAdd rd rs1 imm s

/-- `SUBI`: `x[rd] <- x[rs1] - sext_32(imm)` (41_alu_i.md R122). -/
def execSubi (rd rs1 : RegIdx) (imm : Imm) (s : State) : Host.Outcome State Fault Refusal :=
  binaryRI aluSub rd rs1 imm s

/-- `ANDI`: `x[rd] <- x[rs1] & sext_32(imm)` (41_alu_i.md R123). -/
def execAndi (rd rs1 : RegIdx) (imm : Imm) (s : State) : Host.Outcome State Fault Refusal :=
  binaryRI aluAnd rd rs1 imm s

/-- `ORI`: `x[rd] <- x[rs1] | sext_32(imm)` (41_alu_i.md R124). -/
def execOri (rd rs1 : RegIdx) (imm : Imm) (s : State) : Host.Outcome State Fault Refusal :=
  binaryRI aluOr rd rs1 imm s

/-- `XORI`: `x[rd] <- x[rs1] ^ sext_32(imm)` (41_alu_i.md R125). -/
def execXori (rd rs1 : RegIdx) (imm : Imm) (s : State) : Host.Outcome State Fault Refusal :=
  binaryRI aluXor rd rs1 imm s

/-- `NANDI`: `x[rd] <- ~(x[rs1] & sext_32(imm))` (41_alu_i.md R126). -/
def execNandi (rd rs1 : RegIdx) (imm : Imm) (s : State) : Host.Outcome State Fault Refusal :=
  binaryRI aluNand rd rs1 imm s

/-- `NORI`: `x[rd] <- ~(x[rs1] | sext_32(imm))` (41_alu_i.md R127). -/
def execNori (rd rs1 : RegIdx) (imm : Imm) (s : State) : Host.Outcome State Fault Refusal :=
  binaryRI aluNor rd rs1 imm s

/-- `XNORI`: `x[rd] <- ~(x[rs1] ^ sext_32(imm))` (41_alu_i.md R128). -/
def execXnori (rd rs1 : RegIdx) (imm : Imm) (s : State) : Host.Outcome State Fault Refusal :=
  binaryRI aluXnor rd rs1 imm s

/-- `MVHI`: `x[rd] <- imm in bits 31..16, zeros below`; no register is read (41_alu_i.md R129, log entry 11). -/
def execMvhi (rd : RegIdx) (imm : Imm) (s : State) : Host.Outcome State Fault Refusal :=
  retire rd (highHalf imm) s

end Sys2Proof.Machine
end

