-- ==== Sys2Proof/Machine/AluR.lean ====
section
/-! DEFINITION. The ALU-R group (40_alu_r.md R100): `rd = rs1 op rs2`, `pc <- pc + 4`, no flag, no fault of its own. -/

namespace Sys2Proof.Machine

/-- `ADD`: `x[rd] <- x[rs1] + x[rs2]` (40_alu_r.md R101). -/
def execAdd (rd rs1 rs2 : RegIdx) (s : State) : Host.Outcome State Fault Refusal :=
  binaryRR aluAdd rd rs1 rs2 s

/-- `SUB`: `x[rd] <- x[rs1] - x[rs2]` (40_alu_r.md R102). -/
def execSub (rd rs1 rs2 : RegIdx) (s : State) : Host.Outcome State Fault Refusal :=
  binaryRR aluSub rd rs1 rs2 s

/-- `AND`: `x[rd] <- x[rs1] & x[rs2]` (40_alu_r.md R103). -/
def execAnd (rd rs1 rs2 : RegIdx) (s : State) : Host.Outcome State Fault Refusal :=
  binaryRR aluAnd rd rs1 rs2 s

/-- `OR`: `x[rd] <- x[rs1] | x[rs2]` (40_alu_r.md R104). -/
def execOr (rd rs1 rs2 : RegIdx) (s : State) : Host.Outcome State Fault Refusal :=
  binaryRR aluOr rd rs1 rs2 s

/-- `XOR`: `x[rd] <- x[rs1] ^ x[rs2]` (40_alu_r.md R105). -/
def execXor (rd rs1 rs2 : RegIdx) (s : State) : Host.Outcome State Fault Refusal :=
  binaryRR aluXor rd rs1 rs2 s

/-- `NAND`: `x[rd] <- ~(x[rs1] & x[rs2])` (40_alu_r.md R106). -/
def execNand (rd rs1 rs2 : RegIdx) (s : State) : Host.Outcome State Fault Refusal :=
  binaryRR aluNand rd rs1 rs2 s

/-- `NOR`: `x[rd] <- ~(x[rs1] | x[rs2])` (40_alu_r.md R107). -/
def execNor (rd rs1 rs2 : RegIdx) (s : State) : Host.Outcome State Fault Refusal :=
  binaryRR aluNor rd rs1 rs2 s

/-- `XNOR`: `x[rd] <- ~(x[rs1] ^ x[rs2])` (40_alu_r.md R108). -/
def execXnor (rd rs1 rs2 : RegIdx) (s : State) : Host.Outcome State Fault Refusal :=
  binaryRR aluXnor rd rs1 rs2 s

end Sys2Proof.Machine
end

