-- ==== Sys2Proof/Machine/Flags.lean ====
section
/-! DEFINITION. There are no flags (10_state.md R29): a comparison writes 0 or 1 to a general register, and a branch makes
its own comparison. This file holds the one condition table both use (43_cmp_r.md R150). -/

namespace Sys2Proof.Machine

/-- The eight conditions, `fn[3]` and `fn[1:0]` of the compare and branch groups (43_cmp_r.md R150). -/
inductive Cond where
  | f
  | eq
  | lt
  | lte
  | t
  | ne
  | gte
  | gt
  deriving DecidableEq, Repr

/-- `cond(a, b)`: the ordered conditions compare two's-complement signed numbers, exactly (43_cmp_r.md R150, log entry 10). -/
def condHolds (c : Cond) (a b : Word) : Bool :=
  match c with
  | .f => false
  | .eq => a == b
  | .lt => a.toInt < b.toInt
  | .lte => a.toInt ≤ b.toInt
  | .t => true
  | .ne => a != b
  | .gte => a.toInt ≥ b.toInt
  | .gt => a.toInt > b.toInt

/-- The full word a compare writes: exactly 1 or 0 (43_cmp_r.md R150). -/
def condWord (c : Cond) (a b : Word) : Word := if condHolds c a b then 1#32 else 0#32

end Sys2Proof.Machine
end

