-- ==== Sys2Proof/Machine/Branch.lean ====
section
/-! DEFINITION. The BRANCH group (45_branch.md R190, R191): pc-relative, no link, no delay slot. -/

namespace Sys2Proof.Machine

/-- The shared end of a branch: the target where the condition holds, else the next instruction; nothing but `pc` is
written, and a target outside RAM is the next fetch's fault (45_branch.md R190). -/
def branchOn (c : Cond) (a b : Word) (imm : Imm) (s : State) : Host.Outcome State Fault Refusal :=
  .next (s.setPc (if condHolds c a b then branchTarget s.pc imm else s.nextPc))

/-- `BF` (45_branch.md R192). -/
def execBf (rs1 rs2 : RegIdx) (imm : Imm) (s : State) : Host.Outcome State Fault Refusal :=
  branchOn .f (s.readReg rs1) (s.readReg rs2) imm s

/-- `BEQ` (45_branch.md R193). -/
def execBeq (rs1 rs2 : RegIdx) (imm : Imm) (s : State) : Host.Outcome State Fault Refusal :=
  branchOn .eq (s.readReg rs1) (s.readReg rs2) imm s

/-- `BLT` (45_branch.md R194). -/
def execBlt (rs1 rs2 : RegIdx) (imm : Imm) (s : State) : Host.Outcome State Fault Refusal :=
  branchOn .lt (s.readReg rs1) (s.readReg rs2) imm s

/-- `BLTE` (45_branch.md R195). -/
def execBlte (rs1 rs2 : RegIdx) (imm : Imm) (s : State) : Host.Outcome State Fault Refusal :=
  branchOn .lte (s.readReg rs1) (s.readReg rs2) imm s

/-- `BEQZ`: compares with the constant zero; `R0` is not read (45_branch.md R191, R196, log entry 12). -/
def execBeqz (rs1 : RegIdx) (imm : Imm) (s : State) : Host.Outcome State Fault Refusal :=
  branchOn .eq (s.readReg rs1) 0#32 imm s

/-- `BLTZ`: compares with the constant zero; `R0` is not read (45_branch.md R191, R197, log entry 12). -/
def execBltz (rs1 : RegIdx) (imm : Imm) (s : State) : Host.Outcome State Fault Refusal :=
  branchOn .lt (s.readReg rs1) 0#32 imm s

/-- `BLTEZ`: compares with the constant zero; `R0` is not read (45_branch.md R191, R198, log entry 12). -/
def execBltez (rs1 : RegIdx) (imm : Imm) (s : State) : Host.Outcome State Fault Refusal :=
  branchOn .lte (s.readReg rs1) 0#32 imm s

/-- `BT` (45_branch.md R199). -/
def execBt (rs1 rs2 : RegIdx) (imm : Imm) (s : State) : Host.Outcome State Fault Refusal :=
  branchOn .t (s.readReg rs1) (s.readReg rs2) imm s

/-- `BNE` (45_branch.md R200). -/
def execBne (rs1 rs2 : RegIdx) (imm : Imm) (s : State) : Host.Outcome State Fault Refusal :=
  branchOn .ne (s.readReg rs1) (s.readReg rs2) imm s

/-- `BGTE` (45_branch.md R201). -/
def execBgte (rs1 rs2 : RegIdx) (imm : Imm) (s : State) : Host.Outcome State Fault Refusal :=
  branchOn .gte (s.readReg rs1) (s.readReg rs2) imm s

/-- `BGT` (45_branch.md R202). -/
def execBgt (rs1 rs2 : RegIdx) (imm : Imm) (s : State) : Host.Outcome State Fault Refusal :=
  branchOn .gt (s.readReg rs1) (s.readReg rs2) imm s

/-- `BNEZ`: compares with the constant zero; `R0` is not read (45_branch.md R191, R203, log entry 12). -/
def execBnez (rs1 : RegIdx) (imm : Imm) (s : State) : Host.Outcome State Fault Refusal :=
  branchOn .ne (s.readReg rs1) 0#32 imm s

/-- `BGTEZ`: compares with the constant zero; `R0` is not read (45_branch.md R191, R204, log entry 12). -/
def execBgtez (rs1 : RegIdx) (imm : Imm) (s : State) : Host.Outcome State Fault Refusal :=
  branchOn .gte (s.readReg rs1) 0#32 imm s

/-- `BGTZ`: compares with the constant zero; `R0` is not read (45_branch.md R191, R205, log entry 12). -/
def execBgtz (rs1 : RegIdx) (imm : Imm) (s : State) : Host.Outcome State Fault Refusal :=
  branchOn .gt (s.readReg rs1) 0#32 imm s

end Sys2Proof.Machine
end

