-- ==== Sys2Proof/Machine/CmpI.lean ====
section
/-! DEFINITION. The CMP-I group (44_cmp_i.md R170): `rd = (rs1 op signextension(imm)) ? 1 : 0`. -/

namespace Sys2Proof.Machine

/-- `FI` (44_cmp_i.md R171). -/
def execFi (rd rs1 : RegIdx) (imm : Imm) (s : State) : Host.Outcome State Fault Refusal :=
  binaryRI (condWord .f) rd rs1 imm s

/-- `EQI` (44_cmp_i.md R172). -/
def execEqi (rd rs1 : RegIdx) (imm : Imm) (s : State) : Host.Outcome State Fault Refusal :=
  binaryRI (condWord .eq) rd rs1 imm s

/-- `LTI` (44_cmp_i.md R173). -/
def execLti (rd rs1 : RegIdx) (imm : Imm) (s : State) : Host.Outcome State Fault Refusal :=
  binaryRI (condWord .lt) rd rs1 imm s

/-- `LTEI` (44_cmp_i.md R174). -/
def execLtei (rd rs1 : RegIdx) (imm : Imm) (s : State) : Host.Outcome State Fault Refusal :=
  binaryRI (condWord .lte) rd rs1 imm s

/-- `TI` (44_cmp_i.md R175). -/
def execTi (rd rs1 : RegIdx) (imm : Imm) (s : State) : Host.Outcome State Fault Refusal :=
  binaryRI (condWord .t) rd rs1 imm s

/-- `NEI` (44_cmp_i.md R176). -/
def execNei (rd rs1 : RegIdx) (imm : Imm) (s : State) : Host.Outcome State Fault Refusal :=
  binaryRI (condWord .ne) rd rs1 imm s

/-- `GTEI` (44_cmp_i.md R177). -/
def execGtei (rd rs1 : RegIdx) (imm : Imm) (s : State) : Host.Outcome State Fault Refusal :=
  binaryRI (condWord .gte) rd rs1 imm s

/-- `GTI` (44_cmp_i.md R178). -/
def execGti (rd rs1 : RegIdx) (imm : Imm) (s : State) : Host.Outcome State Fault Refusal :=
  binaryRI (condWord .gt) rd rs1 imm s

end Sys2Proof.Machine
end

