-- ==== Sys2Proof/Machine/CmpR.lean ====
section
/-! DEFINITION. The CMP-R group (43_cmp_r.md R150): `rd = (rs1 op rs2) ? 1 : 0`. -/

namespace Sys2Proof.Machine

/-- `F` (43_cmp_r.md R151). -/
def execF (rd rs1 rs2 : RegIdx) (s : State) : Host.Outcome State Fault Refusal :=
  binaryRR (condWord .f) rd rs1 rs2 s

/-- `EQ` (43_cmp_r.md R152). -/
def execEq (rd rs1 rs2 : RegIdx) (s : State) : Host.Outcome State Fault Refusal :=
  binaryRR (condWord .eq) rd rs1 rs2 s

/-- `LT` (43_cmp_r.md R153). -/
def execLt (rd rs1 rs2 : RegIdx) (s : State) : Host.Outcome State Fault Refusal :=
  binaryRR (condWord .lt) rd rs1 rs2 s

/-- `LTE` (43_cmp_r.md R154). -/
def execLte (rd rs1 rs2 : RegIdx) (s : State) : Host.Outcome State Fault Refusal :=
  binaryRR (condWord .lte) rd rs1 rs2 s

/-- `T` (43_cmp_r.md R155). -/
def execT (rd rs1 rs2 : RegIdx) (s : State) : Host.Outcome State Fault Refusal :=
  binaryRR (condWord .t) rd rs1 rs2 s

/-- `NE` (43_cmp_r.md R156). -/
def execNe (rd rs1 rs2 : RegIdx) (s : State) : Host.Outcome State Fault Refusal :=
  binaryRR (condWord .ne) rd rs1 rs2 s

/-- `GTE` (43_cmp_r.md R157). -/
def execGte (rd rs1 rs2 : RegIdx) (s : State) : Host.Outcome State Fault Refusal :=
  binaryRR (condWord .gte) rd rs1 rs2 s

/-- `GT` (43_cmp_r.md R158). -/
def execGt (rd rs1 rs2 : RegIdx) (s : State) : Host.Outcome State Fault Refusal :=
  binaryRR (condWord .gt) rd rs1 rs2 s

end Sys2Proof.Machine
end

