-- ==== Sys2Proof/Machine/Jal.lean ====
section
/-! DEFINITION. `JAL` (46_jal.md R220). -/

namespace Sys2Proof.Machine

/-- `JAL`: the target is formed from the old `x[rs1]`, then `x[rd] <- pc + 4` and `pc <- target` together; a bad target is
the next fetch's fault (46_jal.md R220, 10_state.md R27, log entry 13). -/
def execJal (rd rs1 : RegIdx) (imm : Imm) (s : State) : Host.Outcome State Fault Refusal :=
  .next ((s.writeReg rd s.nextPc).setPc (jumpTarget (s.readReg rs1) imm))

end Sys2Proof.Machine
end

