-- ==== Sys2Proof/Machine/LoadStore.lean ====
section
/-! DEFINITION. `LW` and `SW` (42_load_store.md R140 to R142): one word, base register plus sign-extended displacement. -/

namespace Sys2Proof.Machine

/-- `LW`: `x[rd] <- MemRead(ea, 4)`; a fault leaves `x[rd]` and `pc` alone (42_load_store.md R141). -/
def execLw (rd rs1 : RegIdx) (imm : Imm) (s : State) : Host.Outcome State Fault Refusal :=
  match memRead (effectiveAddress rs1 imm s) s with
  | .ok (v, s') => retire rd v s'
  | .error f => raise f

/-- `SW`: `MemWrite(ea, 4, x[rs2])`, base `rs1`, stored register `rs2`; a fault leaves memory and `pc` alone
(42_load_store.md R142). -/
def execSw (rs1 rs2 : RegIdx) (imm : Imm) (s : State) : Host.Outcome State Fault Refusal :=
  match memWrite (effectiveAddress rs1 imm s) (s.readReg rs2) s with
  | .ok s' => .next (s'.setPc s.nextPc)
  | .error f => raise f

end Sys2Proof.Machine
end

