-- ==== Sys2Proof/Machine/Dispatch.lean ====
section
/-! DEFINITION. exec: one arm per instruction, each one direct call of its meaning. -/

namespace Sys2Proof.Machine

/-- The effect of one decoded instruction (40_alu_r.md to 46_jal.md). -/
def exec (i : Instr) (s : State) : Host.Outcome State Fault Refusal :=
  match i with
  | .add rd rs1 rs2 => Sys2Proof.Machine.execAdd rd rs1 rs2 s
  | .sub rd rs1 rs2 => Sys2Proof.Machine.execSub rd rs1 rs2 s
  | .and rd rs1 rs2 => Sys2Proof.Machine.execAnd rd rs1 rs2 s
  | .or rd rs1 rs2 => Sys2Proof.Machine.execOr rd rs1 rs2 s
  | .xor rd rs1 rs2 => Sys2Proof.Machine.execXor rd rs1 rs2 s
  | .nand rd rs1 rs2 => Sys2Proof.Machine.execNand rd rs1 rs2 s
  | .nor rd rs1 rs2 => Sys2Proof.Machine.execNor rd rs1 rs2 s
  | .xnor rd rs1 rs2 => Sys2Proof.Machine.execXnor rd rs1 rs2 s
  | .addi rd rs1 imm => Sys2Proof.Machine.execAddi rd rs1 imm s
  | .subi rd rs1 imm => Sys2Proof.Machine.execSubi rd rs1 imm s
  | .andi rd rs1 imm => Sys2Proof.Machine.execAndi rd rs1 imm s
  | .ori rd rs1 imm => Sys2Proof.Machine.execOri rd rs1 imm s
  | .xori rd rs1 imm => Sys2Proof.Machine.execXori rd rs1 imm s
  | .nandi rd rs1 imm => Sys2Proof.Machine.execNandi rd rs1 imm s
  | .nori rd rs1 imm => Sys2Proof.Machine.execNori rd rs1 imm s
  | .xnori rd rs1 imm => Sys2Proof.Machine.execXnori rd rs1 imm s
  | .mvhi rd imm => Sys2Proof.Machine.execMvhi rd imm s
  | .lw rd rs1 imm => Sys2Proof.Machine.execLw rd rs1 imm s
  | .sw rs1 rs2 imm => Sys2Proof.Machine.execSw rs1 rs2 imm s
  | .f rd rs1 rs2 => Sys2Proof.Machine.execF rd rs1 rs2 s
  | .eq rd rs1 rs2 => Sys2Proof.Machine.execEq rd rs1 rs2 s
  | .lt rd rs1 rs2 => Sys2Proof.Machine.execLt rd rs1 rs2 s
  | .lte rd rs1 rs2 => Sys2Proof.Machine.execLte rd rs1 rs2 s
  | .t rd rs1 rs2 => Sys2Proof.Machine.execT rd rs1 rs2 s
  | .ne rd rs1 rs2 => Sys2Proof.Machine.execNe rd rs1 rs2 s
  | .gte rd rs1 rs2 => Sys2Proof.Machine.execGte rd rs1 rs2 s
  | .gt rd rs1 rs2 => Sys2Proof.Machine.execGt rd rs1 rs2 s
  | .fi rd rs1 imm => Sys2Proof.Machine.execFi rd rs1 imm s
  | .eqi rd rs1 imm => Sys2Proof.Machine.execEqi rd rs1 imm s
  | .lti rd rs1 imm => Sys2Proof.Machine.execLti rd rs1 imm s
  | .ltei rd rs1 imm => Sys2Proof.Machine.execLtei rd rs1 imm s
  | .ti rd rs1 imm => Sys2Proof.Machine.execTi rd rs1 imm s
  | .nei rd rs1 imm => Sys2Proof.Machine.execNei rd rs1 imm s
  | .gtei rd rs1 imm => Sys2Proof.Machine.execGtei rd rs1 imm s
  | .gti rd rs1 imm => Sys2Proof.Machine.execGti rd rs1 imm s
  | .bf rs1 rs2 imm => Sys2Proof.Machine.execBf rs1 rs2 imm s
  | .beq rs1 rs2 imm => Sys2Proof.Machine.execBeq rs1 rs2 imm s
  | .blt rs1 rs2 imm => Sys2Proof.Machine.execBlt rs1 rs2 imm s
  | .blte rs1 rs2 imm => Sys2Proof.Machine.execBlte rs1 rs2 imm s
  | .beqz rs1 imm => Sys2Proof.Machine.execBeqz rs1 imm s
  | .bltz rs1 imm => Sys2Proof.Machine.execBltz rs1 imm s
  | .bltez rs1 imm => Sys2Proof.Machine.execBltez rs1 imm s
  | .bt rs1 rs2 imm => Sys2Proof.Machine.execBt rs1 rs2 imm s
  | .bne rs1 rs2 imm => Sys2Proof.Machine.execBne rs1 rs2 imm s
  | .bgte rs1 rs2 imm => Sys2Proof.Machine.execBgte rs1 rs2 imm s
  | .bgt rs1 rs2 imm => Sys2Proof.Machine.execBgt rs1 rs2 imm s
  | .bnez rs1 imm => Sys2Proof.Machine.execBnez rs1 imm s
  | .bgtez rs1 imm => Sys2Proof.Machine.execBgtez rs1 imm s
  | .bgtz rs1 imm => Sys2Proof.Machine.execBgtz rs1 imm s
  | .jal rd rs1 imm => Sys2Proof.Machine.execJal rd rs1 imm s

end Sys2Proof.Machine
end

