-- ==== Sys2Proof/Machine/Step.lean ====
section
/-! DEFINITION. One step of the machine (70_reset_and_hazards.md R298), and where a word must stand for the next step to run
it. -/

namespace Sys2Proof.Machine

/-- Fetch, decode, execute. A step completes all its writes or stops with none (70_reset_and_hazards.md R298,
60_exceptions.md R264). -/
def step (s : State) : Host.Outcome State Fault Refusal :=
  match fetch s with
  | .error f => raise f
  | .ok iw =>
    match decodeWord iw with
    | .error _ => raise (.illegalInstruction s.pc iw)
    | .ok i => exec i s

/-- `s` with the instruction word `w` (bits from `nbits` up zero) stored where `step` fetches next (log entry 6). -/
def State.withFetchWord (s : State) (nbits w : Nat) : State := placeAtFetch (tableWord nbits w) s

end Sys2Proof.Machine
end

