-- ==== Sys2Proof/Machine/Devices.lean ====
section
/-! DEFINITION. What the person at the board sees and sets (20_memory.md R50 to R54, 70_reset_and_hazards.md R300). Nothing
here is read by an instruction. -/

namespace Sys2Proof.Machine

/-- The four digits of the HEX display, leftmost first: `hex[15:12]` is the leftmost (20_memory.md R50, log entry 22). -/
def hexDigits (s : State) : List (BitVec 4) :=
  [s.hex.extractLsb' 12 4, s.hex.extractLsb' 8 4, s.hex.extractLsb' 4 4, s.hex.extractLsb' 0 4]

/-- Red LED `i` is lit exactly when bit `i` of `ledr` is 1 (20_memory.md R51, log entry 22). -/
def redLit (s : State) (i : Fin 10) : Bool := s.ledr.getLsbD i

/-- Green LED `i` is lit exactly when bit `i` of `ledg` is 1 (20_memory.md R52, log entry 22). -/
def greenLit (s : State) (i : Fin 8) : Bool := s.ledg.getLsbD i

/-- The `KEY` register for the set of pressed keys: bit `i` is 1 exactly when key `i` is pressed (20_memory.md R53). -/
def keysPressed (k3 k2 k1 k0 : Bool) : BitVec 4 :=
  BitVec.ofBool k3 ++ BitVec.ofBool k2 ++ BitVec.ofBool k1 ++ BitVec.ofBool k0

/-- The person at the board gives the values the next `KEY` loads will sample (70_reset_and_hazards.md R300, log entry 3). -/
def setKeyInputs (vs : List (BitVec 4)) (s : State) : State := { s with keyQueue := vs }

/-- The person at the board gives the values the next `SWITCH` loads will sample (70_reset_and_hazards.md R300, log entry 3). -/
def setSwitchInputs (vs : List (BitVec 10)) (s : State) : State := { s with switchQueue := vs }

/-- What one recorded store makes of the three displays (20_memory.md R50 to R52). -/
def showEvent (d : BitVec 16 × BitVec 10 × BitVec 8) (e : OutputEvent) : BitVec 16 × BitVec 10 × BitVec 8 :=
  match e with
  | .hex v => (v, d.2.1, d.2.2)
  | .ledr v => (d.1, v, d.2.2)
  | .ledg v => (d.1, d.2.1, v)

/-- The three displays of a state. -/
def displays (s : State) : BitVec 16 × BitVec 10 × BitVec 8 := (s.hex, s.ledr, s.ledg)

end Sys2Proof.Machine
end

