-- ==== Sys2Proof/Machine/Assembler.lean ====
section
/-! DEFINITION. The assembler (00_scope.md R3; 10_state.md R22; 30_encoding.md R88 to R90; 47_pseudo.md R230 to R244): register
names, numbers, labels, pseudo-instructions and directives, from source lines to the 2048-word memory image. How a line of
text is cut into its parts is not modelled, since D0 gives no comment syntax and no separators (91_not_in_source.md N14, U21):
a source is a list of lines already cut. Log entry 21. -/

namespace Sys2Proof.Machine

/-! ### Register names and their roles (10_state.md R22) -/

/-- The software convention of a register; the hardware treats all 16 alike (10_state.md R22). -/
inductive RegRole where
  | argument
  | temporary
  | savedValue
  | assemblerUse
  | systemUse
  | globalPointer
  | framePointer
  | stackPointer
  | returnAddress
  deriving DecidableEq, Repr

/-- The role D0 gives each register (10_state.md R22). -/
def registerRole (r : RegIdx) : RegRole :=
  if r.val ≤ 3 then .argument
  else if r.val ≤ 5 then .temporary
  else if r.val ≤ 8 then .savedValue
  else if r.val = 9 then .assemblerUse
  else if r.val ≤ 11 then .systemUse
  else if r.val = 12 then .globalPointer
  else if r.val = 13 then .framePointer
  else if r.val = 14 then .stackPointer
  else .returnAddress

/-- Every name of every register, in capitals: `R3`, `A3` and `RV` are one register (10_state.md R22). -/
def registerNames : List (String × RegIdx) :=
  [("R0", 0), ("R1", 1), ("R2", 2), ("R3", 3), ("R4", 4), ("R5", 5), ("R6", 6), ("R7", 7),
    ("R8", 8), ("R9", 9), ("R10", 10), ("R11", 11), ("R12", 12), ("R13", 13), ("R14", 14), ("R15", 15)] ++
  [("A0", 0), ("A1", 1), ("A2", 2), ("A3", 3), ("RV", 3), ("T0", 4), ("T1", 5),
    ("S0", 6), ("S1", 7), ("S2", 8), ("GP", 12), ("FP", 13), ("SP", 14), ("RA", 15)]

/-! ### Source lines -/

/-- An operand as written: `text` is a register name, a number or a label; `indexed` is `offset(base)` (30_encoding.md R88). -/
inductive Operand where
  | text (t : String)
  | indexed (offset base : String)
  deriving DecidableEq, Repr

/-- One line of a source, cut into its parts. -/
inductive Line where
  /-- `name:` at the start of a line (47_pseudo.md R240). -/
  | label (name : String)
  /-- An instruction or a pseudo-instruction with its operands (30_encoding.md R88, 47_pseudo.md R230). -/
  | stmt (mnemonic : String) (operands : List Operand)
  /-- `.ORIG <number>` (47_pseudo.md R241). -/
  | orig (value : String)
  /-- `.WORD <value>` (47_pseudo.md R242). -/
  | word (value : String)
  /-- `.NAME <name>=<value>` (47_pseudo.md R243). -/
  | name (name value : String)
  deriving DecidableEq, Repr

/-- Why the assembler refuses a source (92_eei_decisions.md D14 to D16, D24, D25; 93_implementation_defined.md U20). -/
inductive AsmError where
  | unknownMnemonic (m : String)
  | wrongOperands (m : String)
  | unknownRegister (t : String)
  | notANumber (t : String)
  /-- A number that the 16-bit field, or the 32-bit word, cannot hold (D24). -/
  | numberTooWide (n : Int)
  | undefinedLabel (t : String)
  /-- A mnemonic or register name used as a label (47_pseudo.md R240). -/
  | reservedWord (t : String)
  | definedTwice (t : String)
  /-- An item before any `.ORIG` (D25). -/
  | noOrigin
  /-- An `.ORIG` that is not a multiple of 4 or is above 0x1FFC (D25). -/
  | badOrigin (n : Int)
  /-- Two items at one word of the image (D25). -/
  | overlap (index : Nat)
  /-- An item past the last of the 2048 words (47_pseudo.md R244). -/
  | pastTheEnd
  /-- A label whose distance is no multiple of 4 or does not fit (D14), or a jump label that is no multiple of 4 (D15). -/
  | badDistance (n : Int)
  /-- `MVHI` with a label (D16). -/
  | labelInHighHalf
  deriving DecidableEq, Repr

/-! ### Case, numbers, reserved words -/

/-- "Appear in either lowercase or uppercase": the capitals of a word written in one case throughout (30_encoding.md R88; a
mixed word is refused, log entry 21). -/
def oneCase (t : String) : Option String :=
  if t.toList.all (fun c => !c.isLower) then some t
  else if t.toList.all (fun c => !c.isUpper) then some (String.ofList (t.toList.map Char.toUpper))
  else none

/-- The value of a digit in base 10 or 16. -/
def digitValue (base : Nat) (c : Char) : Option Nat :=
  let v :=
    if '0' ≤ c ∧ c ≤ '9' then c.toNat - '0'.toNat
    else if 'a' ≤ c ∧ c ≤ 'f' then c.toNat - 'a'.toNat + 10
    else if 'A' ≤ c ∧ c ≤ 'F' then c.toNat - 'A'.toNat + 10
    else 16
  if v < base then some v else none

/-- The digits of a number, most significant first, added to what stands before them. -/
def readDigits (base : Nat) : Nat → List Char → Option Nat
  | acc, [] => some acc
  | acc, c :: cs =>
    match digitValue base c with
    | some v => readDigits base (acc * base + v) cs
    | none => none

/-- At least one digit. -/
def readNatural (base : Nat) (cs : List Char) : Option Nat := if cs.isEmpty then none else readDigits base 0 cs

/-- "hex (C format, e.g. 0xffff) or decimal (can have - sign)" (30_encoding.md R89). -/
def readNumber (t : String) : Option Int :=
  match t.toList with
  | '0' :: 'x' :: ds => (readNatural 16 ds).map Int.ofNat
  | '0' :: 'X' :: ds => (readNatural 16 ds).map Int.ofNat
  | '-' :: ds => (readNatural 10 ds).map (fun n => -Int.ofNat n)
  | ds => (readNatural 10 ds).map Int.ofNat

/-- A register by any of its names, in either case (10_state.md R22). -/
def readRegister (t : String) : Except AsmError RegIdx :=
  match (oneCase t).bind (fun m => List.lookup m registerNames) with
  | some r => .ok r
  | none => .error (.unknownRegister t)

/-! ### Instruction shapes (30_encoding.md R88) -/

/-- Which of the rules of 30_encoding.md R90 gives the field of a label operand. -/
inductive ImmUse where
  /-- The 14 branches: the distance in words from the next instruction (D14). -/
  | pcRelative
  /-- `JAL`: the address in words (D15). -/
  | wordAddress
  /-- `LW`, `SW`, ALU-I but `MVHI`, CMP-I: the low 16 bits of the address. -/
  | lowHalf
  /-- `MVHI`: refused (D16). -/
  | highHalf
  deriving DecidableEq, Repr

/-- The `fmt` of an instruction and the instruction it builds (30_encoding.md R88). -/
inductive Shape where
  /-- `RD,RS1,RS2`. -/
  | regRegReg (mk : RegIdx → RegIdx → RegIdx → Instr)
  /-- `RD,RS1,imm` or `RS1,RS2,imm`. -/
  | regRegImm (use : ImmUse) (mk : RegIdx → RegIdx → Imm → Instr)
  /-- `RD,imm` or `RS1,imm`. -/
  | regImm (use : ImmUse) (mk : RegIdx → Imm → Instr)
  /-- `RD,imm(RS1)` or `RS2,imm(RS1)`: the register written first, then the base. -/
  | regIndexed (use : ImmUse) (mk : RegIdx → RegIdx → Imm → Instr)

/-- The shapes of ALU-R and CMP-R. -/
def shapesR : List (String × Shape) :=
  [("ADD", .regRegReg .add), ("SUB", .regRegReg .sub), ("AND", .regRegReg .and), ("OR", .regRegReg .or),
    ("XOR", .regRegReg .xor), ("NAND", .regRegReg .nand), ("NOR", .regRegReg .nor), ("XNOR", .regRegReg .xnor)] ++
  [("F", .regRegReg .f), ("EQ", .regRegReg .eq), ("LT", .regRegReg .lt), ("LTE", .regRegReg .lte),
    ("T", .regRegReg .t), ("NE", .regRegReg .ne), ("GTE", .regRegReg .gte), ("GT", .regRegReg .gt)]

/-- The shapes of ALU-I, CMP-I, `LW`, `SW` and `JAL`; `SW` is written stored register first, `RS2,imm(RS1)`. -/
def shapesI : List (String × Shape) :=
  [("ADDI", .regRegImm .lowHalf .addi), ("SUBI", .regRegImm .lowHalf .subi), ("ANDI", .regRegImm .lowHalf .andi),
    ("ORI", .regRegImm .lowHalf .ori), ("XORI", .regRegImm .lowHalf .xori), ("NANDI", .regRegImm .lowHalf .nandi),
    ("NORI", .regRegImm .lowHalf .nori), ("XNORI", .regRegImm .lowHalf .xnori), ("MVHI", .regImm .highHalf .mvhi)] ++
  [("FI", .regRegImm .lowHalf .fi), ("EQI", .regRegImm .lowHalf .eqi), ("LTI", .regRegImm .lowHalf .lti),
    ("LTEI", .regRegImm .lowHalf .ltei), ("TI", .regRegImm .lowHalf .ti), ("NEI", .regRegImm .lowHalf .nei),
    ("GTEI", .regRegImm .lowHalf .gtei), ("GTI", .regRegImm .lowHalf .gti)] ++
  [("LW", .regIndexed .lowHalf .lw), ("SW", .regIndexed .lowHalf (fun rs2 rs1 imm => .sw rs1 rs2 imm)),
    ("JAL", .regIndexed .wordAddress .jal)]

/-- The shapes of the branches. -/
def shapesBranch : List (String × Shape) :=
  [("BF", .regRegImm .pcRelative .bf), ("BEQ", .regRegImm .pcRelative .beq), ("BLT", .regRegImm .pcRelative .blt),
    ("BLTE", .regRegImm .pcRelative .blte), ("BT", .regRegImm .pcRelative .bt), ("BNE", .regRegImm .pcRelative .bne),
    ("BGTE", .regRegImm .pcRelative .bgte), ("BGT", .regRegImm .pcRelative .bgt)] ++
  [("BEQZ", .regImm .pcRelative .beqz), ("BLTZ", .regImm .pcRelative .bltz), ("BLTEZ", .regImm .pcRelative .bltez),
    ("BNEZ", .regImm .pcRelative .bnez), ("BGTEZ", .regImm .pcRelative .bgtez), ("BGTZ", .regImm .pcRelative .bgtz)]

/-- The 50 instructions by mnemonic (30_encoding.md R88). -/
def shapes : List (String × Shape) := shapesR ++ shapesI ++ shapesBranch

/-! ### Pseudo-instructions (47_pseudo.md R230 to R237) -/

/-- The seven pseudo-instructions (47_pseudo.md R230). -/
def pseudoMnemonics : List String := ["BR", "NOT", "BLE", "BGE", "CALL", "RET", "JMP"]

/-- D0's `itext`: the instructions that stand for a pseudo-instruction, the operands substituted by name; none for any other
mnemonic and for operands that do not fit the `fmt`. -/
def expandPseudo (mnemonic : String) (operands : List Operand) : Option (List (String × List Operand)) :=
  match mnemonic, operands with
  | "BR", [.text imm] => some [("BEQ", [.text "R6", .text "R6", .text imm])]
  | "NOT", [.text rd, .text rs] => some [("NAND", [.text rd, .text rs, .text rs])]
  | "BLE", [.text a, .text b, .text imm] =>
    some [("LTE", [.text "R6", .text a, .text b]), ("BNEZ", [.text "R6", .text imm])]
  | "BGE", [.text a, .text b, .text imm] =>
    some [("GTE", [.text "R6", .text a, .text b]), ("BNEZ", [.text "R6", .text imm])]
  | "CALL", [.indexed imm base] => some [("JAL", [.text "RA", .indexed imm base])]
  | "RET", [] => some [("JAL", [.text "R9", .indexed "0" "RA"])]
  | "JMP", [.indexed imm base] => some [("JAL", [.text "R9", .indexed imm base])]
  | _, _ => none

/-- The real instructions of a statement (47_pseudo.md R230). -/
def expand (mnemonic : String) (operands : List Operand) : Except AsmError (List (String × List Operand)) :=
  match oneCase mnemonic with
  | none => .error (.unknownMnemonic mnemonic)
  | some m =>
    if m ∈ pseudoMnemonics then
      match expandPseudo m operands with
      | some is => .ok is
      | none => .error (.wrongOperands mnemonic)
    else .ok [(m, operands)]

/-- "Instruction opcodes and register names: Are reserved words (can't be used as labels)", in either case (30_encoding.md
R88, 47_pseudo.md R240). -/
def reserved (t : String) : Bool :=
  match oneCase t with
  | none => false
  | some m => (List.lookup m shapes).isSome || pseudoMnemonics.contains m || (List.lookup m registerNames).isSome

/-! ### Immediates (30_encoding.md R89, R90) -/

/-- The labels defined so far with their addresses. -/
abbrev Symbols := List (String × Word)

/-- A number's low 16 bits, if 16 bits can hold it as a signed or an unsigned number (30_encoding.md R89, D24). -/
def numberField (n : Int) : Except AsmError Imm :=
  if -32768 ≤ n ∧ n ≤ 65535 then .ok (BitVec.ofInt 16 n) else .error (.numberTooWide n)

/-- The field of a branch to a label: the distance from the next instruction in words (30_encoding.md R90, D14).
DESIGN CHOICE (log entry 21): the distance is the exact difference of the two addresses, each an unsigned 32-bit number. It is
not taken modulo 2^32, so a name above the reach of 16 bits is refused; a `.NAME` with a negative value is such a name (-4 is the
address 0xFFFFFFFC), which 47_pseudo.md R243 leaves open. Safe: the assembler refuses. -/
def distanceField (pc label : Word) : Except AsmError Imm :=
  let d : Int := label.toNat - pc.toNat - 4
  if d % 4 = 0 ∧ -32768 ≤ d / 4 ∧ d / 4 ≤ 32767 then .ok (BitVec.ofInt 16 (d / 4)) else .error (.badDistance d)

/-- The field of a jump to a label: the address in words (30_encoding.md R90, D15). -/
def wordAddressField (label : Word) : Except AsmError Imm :=
  if label.toNat % 4 = 0 then .ok (BitVec.ofNat 16 (label.toNat / 4)) else .error (.badDistance label.toNat)

/-- The field of a label operand in the instruction at `pc` (30_encoding.md R90). -/
def labelField (use : ImmUse) (pc label : Word) : Except AsmError Imm :=
  match use with
  | .pcRelative => distanceField pc label
  | .wordAddress => wordAddressField label
  | .lowHalf => .ok (label.extractLsb' 0 16)
  | .highHalf => .error .labelInHighHalf

/-- An immediate operand: a number or a label (30_encoding.md R89, R90). -/
def immField (use : ImmUse) (symbols : Symbols) (pc : Word) (t : String) : Except AsmError Imm :=
  match readNumber t with
  | some n => numberField n
  | none =>
    match List.lookup t symbols with
    | some label => labelField use pc label
    | none => .error (.undefinedLabel t)

/-- A 32-bit value: a number that 32 bits can hold (47_pseudo.md R242, D24). -/
def numberWord (n : Int) : Except AsmError Word :=
  if -2147483648 ≤ n ∧ n ≤ 4294967295 then .ok (BitVec.ofInt 32 n) else .error (.numberTooWide n)

/-- The operand of `.WORD`: a number, or the full 32-bit address of a label (47_pseudo.md R242). -/
def wordValue (symbols : Symbols) (t : String) : Except AsmError Word :=
  match readNumber t with
  | some n => numberWord n
  | none =>
    match List.lookup t symbols with
    | some label => .ok label
    | none => .error (.undefinedLabel t)

/-- The instruction of a mnemonic (in capitals) and its operands, at `pc` (30_encoding.md R88). -/
def buildInstr (symbols : Symbols) (pc : Word) (mnemonic : String) (operands : List Operand) : Except AsmError Instr :=
  match List.lookup mnemonic shapes, operands with
  | none, _ => .error (.unknownMnemonic mnemonic)
  | some (.regRegReg mk), [.text a, .text b, .text c] =>
    return mk (← readRegister a) (← readRegister b) (← readRegister c)
  | some (.regRegImm use mk), [.text a, .text b, .text i] =>
    return mk (← readRegister a) (← readRegister b) (← immField use symbols pc i)
  | some (.regImm use mk), [.text a, .text i] =>
    return mk (← readRegister a) (← immField use symbols pc i)
  | some (.regIndexed use mk), [.text a, .indexed i base] =>
    return mk (← readRegister a) (← readRegister base) (← immField use symbols pc i)
  | some _, _ => .error (.wrongOperands mnemonic)

/-! ### The image (47_pseudo.md R241 to R244) -/

/-- The memory image: word index and word, indices strictly rising; 2048 entries of which the unlisted are undefined
(47_pseudo.md R244, D13). -/
abbrev Image := List (Nat × Word)

/-- Entry `i` of the image, the word at byte address `4*i` (70_reset_and_hazards.md R293). -/
def imageEntry (im : Image) (i : Nat) : Option Word := List.lookup i im

/-- The 2048 entries, in order (47_pseudo.md R244). -/
def imageEntries (im : Image) : List (Option Word) := (List.range Config.ramWords).map (imageEntry im)

/-- Place a word at an entry that holds none yet (D25: overlaps are refused). -/
def placeWord : Image → Nat → Word → Except AsmError Image
  | [], i, v => .ok [(i, v)]
  | (k, x) :: im, i, v =>
    if i < k then .ok ((i, v) :: (k, x) :: im)
    else if i = k then .error (.overlap i)
    else do return (k, x) :: (← placeWord im i v)

/-- The bytes of an image in RAM (70_reset_and_hazards.md R293). -/
def imageMemory (im : Image) : Memory := im.foldl (fun m e => m.writeWord (4 * e.1) e.2) []

/-- The start of a machine with an image loaded and everything else as in `b` (70_reset_and_hazards.md R300). -/
def Boot.withImage (b : Boot) (im : Image) : Boot := { b with image := imageMemory im }

/-! ### The two passes -/

/-- Where the assembler stands: the current byte address, none before the first `.ORIG` (47_pseudo.md R241, D25). -/
abbrev Location := Option Nat

/-- The address `.ORIG` sets: a number, a multiple of 4, at most 0x1FFC (47_pseudo.md R241, D25). -/
def originOf (value : String) : Except AsmError Nat :=
  match readNumber value with
  | none => .error (.notANumber value)
  | some n => if 0 ≤ n ∧ n % 4 = 0 ∧ n ≤ 0x1FFC then .ok n.toNat else .error (.badOrigin n)

/-- Define a name once; mnemonics and register names are no labels (47_pseudo.md R240, R243). -/
def define (symbols : Symbols) (t : String) (v : Word) : Except AsmError Symbols :=
  if reserved t then .error (.reservedWord t)
  else if (List.lookup t symbols).isSome then .error (.definedTwice t)
  else .ok (symbols ++ [(t, v)])

/-- First pass: the value of every label, so that a label may be used before its line (47_pseudo.md R240, R241, R243).
DESIGN CHOICE (log entry 21): the value of `.NAME` is a number and nothing else; whether it may be a label or an expression is not
said (91_not_in_source.md N14), and such a value is refused as `notANumber`. Safe: the assembler refuses. -/
def collect : List Line → Location → Symbols → Except AsmError Symbols
  | [], _, symbols => .ok symbols
  | .orig v :: ls, _, symbols => do collect ls (some (← originOf v)) symbols
  | .name t v :: ls, at', symbols =>
    match readNumber v with
    | none => .error (.notANumber v)
    | some n => do collect ls at' (← define symbols t (← numberWord n))
  | .label t :: ls, some a, symbols => do collect ls (some a) (← define symbols t (BitVec.ofNat 32 a))
  | .stmt m os :: ls, some a, symbols => do collect ls (some (a + 4 * (← expand m os).length)) symbols
  | .word _ :: ls, some a, symbols => collect ls (some (a + 4)) symbols
  | .label _ :: _, none, _ => .error .noOrigin
  | .stmt _ _ :: _, none, _ => .error .noOrigin
  | .word _ :: _, none, _ => .error .noOrigin

/-- Place one word at byte address `a` of the image (47_pseudo.md R241, R244). -/
def emitWord (im : Image) (a : Nat) (v : Word) : Except AsmError Image :=
  if a < Config.ramBytes then placeWord im (a / 4) v else .error .pastTheEnd

/-- Place the instructions of one statement at consecutive word addresses (47_pseudo.md R230). -/
def emitAll (symbols : Symbols) : List (String × List Operand) → Nat → Image → Except AsmError Image
  | [], _, im => .ok im
  | (m, os) :: is, a, im => do
    let i ← buildInstr symbols (BitVec.ofNat 32 a) m os
    emitAll symbols is (a + 4) (← emitWord im a (encode i))

/-- Second pass: the words of every statement and `.WORD` (47_pseudo.md R230, R241, R242). -/
def emit (symbols : Symbols) : List Line → Location → Image → Except AsmError Image
  | [], _, im => .ok im
  | .orig v :: ls, _, im => do emit symbols ls (some (← originOf v)) im
  | .name _ _ :: ls, at', im => emit symbols ls at' im
  | .label _ :: ls, at', im => emit symbols ls at' im
  | .stmt m os :: ls, some a, im => do
    let is ← expand m os
    emit symbols ls (some (a + 4 * is.length)) (← emitAll symbols is a im)
  | .word v :: ls, some a, im => do emit symbols ls (some (a + 4)) (← emitWord im a (← wordValue symbols v))
  | .stmt _ _ :: _, none, _ => .error .noOrigin
  | .word _ :: _, none, _ => .error .noOrigin

/-- The assembler: a source to its memory image, or why it is refused (47_pseudo.md R244). -/
def assemble (source : List Line) : Except AsmError Image := do
  emit (← collect source none []) source none []

end Sys2Proof.Machine
end

