-- ==== Sys2Proof/Safety.lean ====
section
/-! DEFINITION. What a safe run and the end of a run are (60_exceptions.md R262, 70_reset_and_hazards.md R299), and the
invariant every step keeps. -/

namespace Sys2Proof.Machine

/-- Every byte the memory lists lies in RAM (20_memory.md R42). -/
def Memory.inRam (m : Memory) : Prop := ∀ c ∈ m, c.1 < Config.ramBytes

/-- The bytes of a word hold a value all together or not at all: only whole words move (20_memory.md R48). -/
def Memory.wordWhole (m : Memory) : Prop :=
  ∀ a, (m.readByte a).isSome = (m.readByte (4 * (a / 4))).isSome

/-- A memory that loading words and `SW` can make. -/
def Memory.Valid (m : Memory) : Prop := m.wf ∧ m.inRam ∧ m.wordWhole

/-- The stored-to marks are a canonical list of indices of RAM words that hold a value (20_memory.md R47). -/
def State.marksValid (s : State) : Prop :=
  s.stored.Pairwise (· < ·) ∧ ∀ i ∈ s.stored, i < Config.ramWords ∧ (s.mem.readWord (4 * i)).isSome

/-- The machine's invariant: memory is canonical, confined to RAM and made of whole words, and the marks fit it. -/
def State.Inv (s : State) : Prop := s.mem.Valid ∧ s.marksValid

/-- A run that never stops: "a claim about a program must show that no run of it faults" (60_exceptions.md R262). -/
def SafeRun (s : State) : Prop := ∀ k, ∃ t, Sys2Proof.core.run k s = .next t

/-- The instructions that transfer control: the branches and `JAL` (46_jal.md R221). -/
def isTransfer (i : Instr) : Bool := opOf (encode i) == 0b0110#4 || opOf (encode i) == 0b1011#4

/-- The instruction at `pc` is a branch or `JAL` whose target is its own address, and stays so: it leads back to itself, and
from there to the very same state again. (A branch changes nothing at all; a `JAL` writes its link once, and one that
overwrites its own base does not stay.) "a self-branch whose condition stays true" (70_reset_and_hazards.md R299). -/
def selfLoop (s : State) : Bool :=
  match fetch s with
  | .error _ => false
  | .ok iw =>
    match decodeWord iw with
    | .error _ => false
    | .ok i =>
      isTransfer i &&
        match exec i s with
        | .next t =>
          t.pc == s.pc &&
            match exec i t with
            | .next u => decide (u = t)
            | _ => false
        | _ => false

/-- A run is over at `haltPc`: the convention of 70_reset_and_hazards.md R299; the hardware goes on executing the
self-branch, and so does `step` (log entry 20). -/
def runOver (haltPc : Word) (s : State) : Bool := s.pc == haltPc && selfLoop s

/-- A finished run from `s` in `k` steps with final state `t`, "the state at that moment": the moment `pc` is `haltPc` for the
first time, so no earlier state of the run stands there (70_reset_and_hazards.md R299, log entry 20). -/
def FinishesIn (haltPc : Word) (k : Nat) (s t : State) : Prop :=
  Sys2Proof.core.run k s = .next t ∧ runOver haltPc t = true ∧
    ∀ j, j < k → ∀ u, Sys2Proof.core.run j s = .next u → u.pc ≠ haltPc

end Sys2Proof.Machine
end

