-- ==== Sys2Proof/Certificates/Slice0/Obligations.lean ====
section
/-! DEFINITION. The statements about the model, from the spec's numbered rules. Words are written here as sums of their
fields, and memory is looked at through the reads of the model. -/

namespace Sys2Proof.Claims

open Sys2Proof.Machine

/-! ### Vocabulary of the statements -/

/-- Everything but the registers and `pc` is as before: every byte of memory, the memory's list itself, the marks, the output
registers, the recorded outputs and the inputs to come. -/
def RestSame (s t : State) : Prop :=
  (∀ a, t.mem.readByte a = s.mem.readByte a) ∧ t.mem = s.mem ∧ t.stored = s.stored ∧ t.hex = s.hex ∧ t.ledr = s.ledr ∧
    t.ledg = s.ledg ∧ t.outputs = s.outputs ∧ t.keyQueue = s.keyQueue ∧ t.switchQueue = s.switchQueue ∧
    t.keyDraws = s.keyDraws ∧ t.switchDraws = s.switchDraws

/-- `t` is `s` with register `rd` holding `v` and `pc` at `p`, and nothing else changed. -/
def WritesOnly (s t : State) (rd : RegIdx) (v p : Word) : Prop :=
  t.readReg rd = v ∧ (∀ r, r ≠ rd → t.readReg r = s.readReg r) ∧ t.pc = p ∧ RestSame s t

/-- `exec i s` answers a next state, which is `s` with `rd` holding `v` and `pc` at `p`. -/
def Yields (i : Instr) (s : State) (rd : RegIdx) (v p : Word) : Prop :=
  ∃ t, exec i s = .next t ∧ WritesOnly s t rd v p

/-- `exec i s` answers a next state, which is `s` with `pc` at `p` and no register changed. -/
def GoesTo (i : Instr) (s : State) (p : Word) : Prop :=
  ∃ t, exec i s = .next t ∧ t.pc = p ∧ (∀ r, t.readReg r = s.readReg r) ∧ RestSame s t

/-- The branch `i` with field `imm` goes to `pc + 4 + 4 * sext_32(imm)` when `c` holds, else to `pc + 4`. -/
def BranchesWhen (i : Instr) (s : State) (imm : Imm) (c : Prop) : Prop :=
  (c → GoesTo i s (s.pc + 4#32 + 4#32 * sext32 imm)) ∧ (¬ c → GoesTo i s (s.pc + 4#32))

/-- `i` completes in `s` as a load of an input of `n` bits: `rd` holds some value of `n` bits, the bits above zero, `pc` advances
by 4, and nothing else changes but what the model keeps of the inputs to come. -/
def LoadsInput (n : Nat) (i : Instr) (s : State) (rd : RegIdx) : Prop :=
  ∃ (t : State) (k : BitVec n), exec i s = .next t ∧ t.readReg rd = k.setWidth 32 ∧
    (∀ x, x ≠ rd → t.readReg x = s.readReg x) ∧ t.pc = s.pc + 4#32 ∧ (∀ a, t.mem.readByte a = s.mem.readByte a) ∧
    t.mem = s.mem ∧ t.stored = s.stored ∧ t.hex = s.hex ∧ t.ledr = s.ledr ∧ t.ledg = s.ledg ∧ t.outputs = s.outputs

/-- `i` completes in `s` as a store to an output register: the displays become `h`, `r`, `g`, `pc` advances by 4, and nothing
else changes but the model's record of the outputs. -/
def Shows (i : Instr) (s : State) (h : BitVec 16) (r : BitVec 10) (g : BitVec 8) : Prop :=
  ∃ t, exec i s = .next t ∧ t.hex = h ∧ t.ledr = r ∧ t.ledg = g ∧ (∀ x, t.readReg x = s.readReg x) ∧ t.pc = s.pc + 4#32 ∧ (∀ a, t.mem.readByte a = s.mem.readByte a) ∧
    t.mem = s.mem ∧ t.stored = s.stored ∧ t.keyQueue = s.keyQueue ∧ t.switchQueue = s.switchQueue ∧
    t.keyDraws = s.keyDraws ∧ t.switchDraws = s.switchDraws

/-- The word with three register fields and `code` below (formats R). -/
def wordR (fa fb fc : RegIdx) (code : Nat) : Word :=
  BitVec.ofNat 32 (fa.val * 2 ^ 28 + fb.val * 2 ^ 24 + fc.val * 2 ^ 20 + code)

/-- The word with two register fields, an immediate field and `code` below (formats I and S). -/
def wordI (fa fb : RegIdx) (imm : Imm) (code : Nat) : Word :=
  BitVec.ofNat 32 (fa.val * 2 ^ 28 + fb.val * 2 ^ 24 + imm.toNat * 2 ^ 8 + code)

/-- The word with one register field, zeros in bits 27:24, an immediate field and `code` below (formats U and Z). -/
def wordU (fa : RegIdx) (imm : Imm) (code : Nat) : Word :=
  BitVec.ofNat 32 (fa.val * 2 ^ 28 + imm.toNat * 2 ^ 8 + code)

/-- 1 when `c` holds, else 0, as a full register. -/
def oneIf (c : Prop) [Decidable c] : Word := if c then 0x00000001#32 else 0x00000000#32

/-- The condition of function bits `fn[1:0]` (43_cmp_r.md R150), before the negation, told by the bits alone. -/
def plainCond (fn : BitVec 4) (a b : Word) : Prop :=
  if fn.getLsbD 1 then (if fn.getLsbD 0 then a.toInt ≤ b.toInt else a.toInt < b.toInt)
  else (if fn.getLsbD 0 then a = b else False)

/-- The condition of function bits `fn[3]` and `fn[1:0]`: `fn[3]` negates (43_cmp_r.md R150). -/
def bitCond (fn : BitVec 4) (a b : Word) : Prop := if fn.getLsbD 3 then ¬ plainCond fn a b else plainCond fn a b

/-- The words of 30_encoding.md R85, by its five points. -/
def OutsideTable (w : Word) : Prop :=
  (opOf w ∈ [0b0001#4, 0b0011#4, 0b0100#4, 0b0111#4, 0b1100#4, 0b1101#4, 0b1110#4, 0b1111#4]) ∨
  (opOf w = 0b0000#4 ∧
    fnOf w ∈ [0b0010#4, 0b0011#4, 0b0111#4, 0b1000#4, 0b1001#4, 0b1010#4, 0b1011#4, 0b1111#4]) ∨
  (opOf w = 0b1000#4 ∧ fnOf w ∈ [0b0010#4, 0b0011#4, 0b0111#4, 0b1000#4, 0b1001#4, 0b1010#4, 0b1111#4]) ∨
  ((opOf w = 0b0010#4 ∨ opOf w = 0b1010#4) ∧
    fnOf w ∈ [0b0100#4, 0b0101#4, 0b0110#4, 0b0111#4, 0b1100#4, 0b1101#4, 0b1110#4, 0b1111#4]) ∨
  (opOf w = 0b0110#4 ∧ fnOf w ∈ [0b0100#4, 0b1100#4]) ∨
  ((opOf w = 0b1001#4 ∨ opOf w = 0b0101#4 ∨ opOf w = 0b1011#4) ∧ fnOf w ≠ 0b0000#4) ∨
  ((opOf w = 0b0000#4 ∨ opOf w = 0b0010#4) ∧ z12Of w ≠ 0#12) ∨
  (((opOf w = 0b1000#4 ∧ fnOf w = 0b1011#4) ∨ (opOf w = 0b0110#4 ∧ (fnOf w).getLsbD 2 = true)) ∧ fbOf w ≠ 0)

/-- An image the loader can place: indices strictly rising and below 2048. -/
def ImageValid (im : Image) : Prop := im.Pairwise (fun x y => x.1 < y.1) ∧ ∀ e ∈ im, e.1 < 2048

/-- The state after an instruction, if there is one. -/
def mapNext (g : State → State) (o : Host.Outcome State Fault Refusal) : Host.Outcome State Fault Refusal :=
  match o with
  | .next t => .next (g t)
  | .fault f => .fault f
  | .refused r => .refused r

/-- The same machine in front of another board: other displays and another record of outputs. -/
def withOutputs (h : BitVec 16) (r : BitVec 10) (g : BitVec 8) (os : List OutputEvent) (s : State) : State :=
  { s with hex := h, ledr := r, ledg := g, outputs := os }

/-- The same machine with other inputs to come. -/
def withInputs (ks : List (BitVec 4)) (ws : List (BitVec 10)) (kd wd : Nat) (s : State) : State :=
  { s with keyQueue := ks, switchQueue := ws, keyDraws := kd, switchDraws := wd }

/-- The same machine with other RAM contents and other marks. -/
def withMemory (m : Memory) (marks : List Nat) (s : State) : State := { s with mem := m, stored := marks }

/-- `s` and `s'` differ at most in the displays and the record of outputs. -/
def SameBehindBoard (s s' : State) : Prop :=
  s'.regs = s.regs ∧ s'.pc = s.pc ∧ s'.mem = s.mem ∧ s'.stored = s.stored ∧ s'.keyQueue = s.keyQueue ∧
    s'.switchQueue = s.switchQueue ∧ s'.keyDraws = s.keyDraws ∧ s'.switchDraws = s.switchDraws

end Sys2Proof.Claims

open Sys2Proof Sys2Proof.Machine Sys2Proof.Claims

/-! ### Encoding -/

/-- Words written out from the spec (95_test_vectors.md sections 2 and 3) decode to the instructions they stand for. -/
def Obligations.SpecWordsDecode : Prop :=
  decodeWord 0x12300010#32 = .ok (.sub 1 2 3) ∧ decodeWord 0x123000E0#32 = .ok (.xnor 1 2 3) ∧
  decodeWord 0x12800118#32 = .ok (.subi 1 2 0x8001#16) ∧ decodeWord 0xC0F000B8#32 = .ok (.mvhi 12 0xF000#16) ∧
  decodeWord 0x3EFFFC09#32 = .ok (.lw 3 14 0xFFFC#16) ∧ decodeWord 0x12000805#32 = .ok (.sw 1 2 0x0008#16) ∧
  decodeWord 0x123000A2#32 = .ok (.gte 1 2 3) ∧ decodeWord 0x1280003A#32 = .ok (.ltei 1 2 0x8000#16) ∧
  decodeWord 0x23000316#32 = .ok (.beq 2 3 0x0003#16) ∧ decodeWord 0x20FFFCE6#32 = .ok (.bgtez 2 0xFFFC#16) ∧
  decodeWord 0xF200040B#32 = .ok (.jal 15 2 0x0004#16) ∧ decodeWord 0x00000000#32 = .ok (.add 0 0 0)

/-- Headline: decoding the word of any instruction gives that instruction back, whatever its operands. -/
def Obligations.EncodeThenDecodeGivesBack : Prop :=
  ∀ i : Instr, decodeWord (encode i) = .ok i ∧ decodeBytes (bytesOfWord (encode i)) = .ok (i, [])

/-- Each word has at most one meaning: a word that decodes is the word of its instruction, so no bit of it is ignored. -/
def Obligations.DecodedWordsEncodeBack : Prop :=
  ∀ (w : Word) (i : Instr), decodeWord w = .ok i → encode i = w

/-- 30_encoding.md R80: a word is a row's instruction exactly when `iw & mask == match`; the table has 50 rows and no two of
them admit one word. -/
def Obligations.TableRowsDecideDecoding : Prop :=
  opcodeRows.length = 50 ∧
  (∀ r ∈ opcodeRows, ∀ w : Word,
    (w &&& r.mask = r.value ↔ ∃ i, decodeWord w = .ok i ∧ i.mnemonic = r.mnemonic)) ∧
  (∀ r ∈ opcodeRows, ∀ r' ∈ opcodeRows, ∀ w : Word, w &&& r.mask = r.value → w &&& r'.mask = r'.value → r = r')

/-- 30_encoding.md R85: the step raises `IllegalInstruction(pc, iw)` on exactly the words of R85's five points. -/
def Obligations.IllegalWordsFault : Prop :=
  ∀ (s : State) (w : Word), fetch s = .ok w →
    (OutsideTable w ↔ step s = .fault (.illegalInstruction s.pc w))

/-! ### Reset, loading, the step -/

/-- 70_reset_and_hazards.md R291: `pc` is 0x40, no word is marked, the registers, RAM and output registers hold what the start
gives them, whatever that is, and nothing has been output; an address the image does not define holds no value. The reset
state itself is the start with nothing loaded and, by the model's own choice (log entries 1 and 2), zeros. -/
def Obligations.StateAfterReset : Prop :=
  (∀ b : Boot, (State.boot b).pc = 0x00000040#32 ∧ (∀ r, (State.boot b).readReg r = b.regInit.get r) ∧
    (State.boot b).mem = b.image ∧ (State.boot b).stored = [] ∧ (State.boot b).hex = b.hexInit ∧
    (State.boot b).ledr = b.ledrInit ∧ (State.boot b).ledg = b.ledgInit ∧ (State.boot b).outputs = []) ∧
  State.reset = State.boot Boot.blank ∧ (∀ a, State.reset.mem.readByte a = none) ∧
  step State.reset = .fault (.undefinedRead 0x00000040#32)

/-- 70_reset_and_hazards.md R293, 47_pseudo.md R244: entry `i` of a loaded image is the RAM word at byte address `4*i`, and an
entry the image does not define holds no value. -/
def Obligations.ImageLoadsWordForWord : Prop :=
  ∀ (im : Image), ImageValid im → ∀ i, (imageMemory im).readWord (4 * i) = imageEntry im i

/-- 10_state.md R28: `pc` is 0x40 after reset, and the first instruction executed is the word at byte address 0x40, word index
16 of the image, whatever else the machine starts with. -/
def Obligations.FirstInstructionIsImageEntry16 : Prop :=
  ∀ (b : Boot) (im : Image), ImageValid im →
    (State.boot (b.withImage im)).pc = 0x00000040#32 ∧
    (∀ w, imageEntry im 16 = some w → fetch (State.boot (b.withImage im)) = .ok w) ∧
    (∀ w i, imageEntry im 16 = some w → decodeWord w = .ok i →
      step (State.boot (b.withImage im)) = exec i (State.boot (b.withImage im))) ∧
    (imageEntry im 16 = none →
      step (State.boot (b.withImage im)) = .fault (.undefinedRead 0x00000040#32))

/-- The bytes at an aligned `pc` in RAM, unmarked, that decode to `i`: the step is `exec i` at that state, nothing added. -/
def Obligations.StepRunsDecodedInstruction : Prop :=
  ∀ (s : State) (b0 b1 b2 b3 : Byte) (i : Instr),
    s.pc.toNat % 4 = 0 → s.pc.toNat < 0x2000 → s.pc.toNat / 4 ∉ s.stored →
    s.mem.readByte s.pc.toNat = some b0 → s.mem.readByte (s.pc.toNat + 1) = some b1 →
    s.mem.readByte (s.pc.toNat + 2) = some b2 → s.mem.readByte (s.pc.toNat + 3) = some b3 →
    decodeBytes [b0, b1, b2, b3] = .ok (i, []) →
    step s = exec i s

/-- A word placed where the next fetch takes it is the instruction the next step runs; nothing but that word and its mark is
touched when `pc` is one a fetch can use (the model's own loader, log entry 6). -/
def Obligations.PlacedWordRunsNext : Prop :=
  ∀ (s : State) (w : Nat) (i : Instr), decodeTableWord 32 w = some i →
    step (s.withFetchWord 32 w) = exec i (s.withFetchWord 32 w) ∧
    (s.pc.toNat % 4 = 0 → s.pc.toNat < 0x2000 →
      (s.withFetchWord 32 w).pc = s.pc ∧ (s.withFetchWord 32 w).regs = s.regs ∧
      ∀ a, a < s.pc.toNat ∨ s.pc.toNat + 4 ≤ a → (s.withFetchWord 32 w).mem.readByte a = s.mem.readByte a)

/-- 20_memory.md R45: the four checks of a fetch, in order, and the word fetched. -/
def Obligations.FetchChecksInOrder : Prop :=
  ∀ s : State,
    (s.pc.toNat % 4 ≠ 0 → fetch s = .error (.misalignedFetch s.pc)) ∧
    (s.pc.toNat % 4 = 0 → 0x2000 ≤ s.pc.toNat → fetch s = .error (.unmappedFetch s.pc)) ∧
    (s.pc.toNat % 4 = 0 → s.pc.toNat < 0x2000 → s.mem.readWord s.pc.toNat = none →
      fetch s = .error (.undefinedRead s.pc)) ∧
    (∀ w, s.pc.toNat % 4 = 0 → s.pc.toNat < 0x2000 → s.mem.readWord s.pc.toNat = some w →
      (s.pc.toNat / 4 ∈ s.stored → fetch s = .error (.fetchAfterStore s.pc)) ∧
      (s.pc.toNat / 4 ∉ s.stored → fetch s = .ok w))

/-- 60_exceptions.md R263: the order of checks within one step, which decides the fault reported: fetch alignment, fetch map,
fetch undefined, fetch after store, decode, then for `LW` and `SW` alignment, map and, for `LW`, undefined data. -/
def Obligations.FaultOrderOfAStep : Prop :=
  ∀ s : State,
    (s.pc.toNat % 4 ≠ 0 → step s = .fault (.misalignedFetch s.pc)) ∧
    (s.pc.toNat % 4 = 0 → 0x2000 ≤ s.pc.toNat → step s = .fault (.unmappedFetch s.pc)) ∧
    (s.pc.toNat % 4 = 0 → s.pc.toNat < 0x2000 → s.mem.readWord s.pc.toNat = none →
      step s = .fault (.undefinedRead s.pc)) ∧
    (∀ w, s.pc.toNat % 4 = 0 → s.pc.toNat < 0x2000 → s.mem.readWord s.pc.toNat = some w →
      (s.pc.toNat / 4 ∈ s.stored → step s = .fault (.fetchAfterStore s.pc)) ∧
      (s.pc.toNat / 4 ∉ s.stored →
        (OutsideTable w → step s = .fault (.illegalInstruction s.pc w)) ∧
        (∀ rd rs1 imm, decodeWord w = .ok (.lw rd rs1 imm) →
          ((s.readReg rs1 + sext32 imm).toNat % 4 ≠ 0 →
            step s = .fault (.misalignedAccess (s.readReg rs1 + sext32 imm))) ∧
          ((s.readReg rs1 + sext32 imm).toNat % 4 = 0 → 0x2000 ≤ (s.readReg rs1 + sext32 imm).toNat →
            s.readReg rs1 + sext32 imm ≠ 0xF0000010#32 → s.readReg rs1 + sext32 imm ≠ 0xF0000014#32 →
            step s = .fault (.unmappedAccess (s.readReg rs1 + sext32 imm) .load)) ∧
          ((s.readReg rs1 + sext32 imm).toNat % 4 = 0 → (s.readReg rs1 + sext32 imm).toNat < 0x2000 →
            s.mem.readWord (s.readReg rs1 + sext32 imm).toNat = none →
            step s = .fault (.undefinedRead (s.readReg rs1 + sext32 imm)))) ∧
        (∀ rs1 rs2 imm, decodeWord w = .ok (.sw rs1 rs2 imm) →
          ((s.readReg rs1 + sext32 imm).toNat % 4 ≠ 0 →
            step s = .fault (.misalignedAccess (s.readReg rs1 + sext32 imm))) ∧
          ((s.readReg rs1 + sext32 imm).toNat % 4 = 0 → 0x2000 ≤ (s.readReg rs1 + sext32 imm).toNat →
            s.readReg rs1 + sext32 imm ≠ 0xF0000000#32 → s.readReg rs1 + sext32 imm ≠ 0xF0000004#32 →
            s.readReg rs1 + sext32 imm ≠ 0xF0000008#32 →
            step s = .fault (.unmappedAccess (s.readReg rs1 + sext32 imm) .store)))))

/-! ### Invariant -/

/-- The reset state meets the invariant. -/
def Obligations.ResetMeetsInvariant : Prop := State.reset.Inv

/-- Every machine that starts with a valid image loaded meets the invariant. -/
def Obligations.LoadedStartMeetsInvariant : Prop :=
  ∀ (b : Boot) (im : Image), ImageValid im → (State.boot (b.withImage im)).Inv

/-- Headline: from every state that meets the invariant, a step that answers a next state gives one that meets it: memory stays
in its canonical form, inside RAM and made of whole words, and the stored-to marks stay a rising list of words that hold a
value. -/
def Obligations.StepKeepsInvariant : Prop :=
  ∀ s t : State, s.Inv → step s = .next t → t.Inv

/-! ### ALU -/

/-- 40_alu_r.md R101 to R108: each ALU-R word decodes to its instruction, which completes in every state: `rd` gets the result
of the old sources, `pc` advances by 4, nothing else changes. -/
def Obligations.AluRegisterResults : Prop :=
  ∀ (rd rs1 rs2 : RegIdx) (s : State),
    (decodeWord (wordR rd rs1 rs2 0x00) = .ok (.add rd rs1 rs2) ∧
      Yields (.add rd rs1 rs2) s rd (s.readReg rs1 + s.readReg rs2) (s.pc + 4#32)) ∧
    (decodeWord (wordR rd rs1 rs2 0x10) = .ok (.sub rd rs1 rs2) ∧
      Yields (.sub rd rs1 rs2) s rd (s.readReg rs1 - s.readReg rs2) (s.pc + 4#32)) ∧
    (decodeWord (wordR rd rs1 rs2 0x40) = .ok (.and rd rs1 rs2) ∧
      Yields (.and rd rs1 rs2) s rd (s.readReg rs1 &&& s.readReg rs2) (s.pc + 4#32)) ∧
    (decodeWord (wordR rd rs1 rs2 0x50) = .ok (.or rd rs1 rs2) ∧
      Yields (.or rd rs1 rs2) s rd (s.readReg rs1 ||| s.readReg rs2) (s.pc + 4#32)) ∧
    (decodeWord (wordR rd rs1 rs2 0x60) = .ok (.xor rd rs1 rs2) ∧
      Yields (.xor rd rs1 rs2) s rd (s.readReg rs1 ^^^ s.readReg rs2) (s.pc + 4#32)) ∧
    (decodeWord (wordR rd rs1 rs2 0xC0) = .ok (.nand rd rs1 rs2) ∧
      Yields (.nand rd rs1 rs2) s rd (~~~(s.readReg rs1 &&& s.readReg rs2)) (s.pc + 4#32)) ∧
    (decodeWord (wordR rd rs1 rs2 0xD0) = .ok (.nor rd rs1 rs2) ∧
      Yields (.nor rd rs1 rs2) s rd (~~~(s.readReg rs1 ||| s.readReg rs2)) (s.pc + 4#32)) ∧
    (decodeWord (wordR rd rs1 rs2 0xE0) = .ok (.xnor rd rs1 rs2) ∧
      Yields (.xnor rd rs1 rs2) s rd (~~~(s.readReg rs1 ^^^ s.readReg rs2)) (s.pc + 4#32))

/-- 41_alu_i.md R121 to R128: each ALU-I word decodes to its instruction, which completes in every state with the
sign-extended immediate as its second operand. -/
def Obligations.AluImmediateResults : Prop :=
  ∀ (rd rs1 : RegIdx) (imm : Imm) (s : State),
    (decodeWord (wordI rd rs1 imm 0x08) = .ok (.addi rd rs1 imm) ∧
      Yields (.addi rd rs1 imm) s rd (s.readReg rs1 + sext32 imm) (s.pc + 4#32)) ∧
    (decodeWord (wordI rd rs1 imm 0x18) = .ok (.subi rd rs1 imm) ∧
      Yields (.subi rd rs1 imm) s rd (s.readReg rs1 - sext32 imm) (s.pc + 4#32)) ∧
    (decodeWord (wordI rd rs1 imm 0x48) = .ok (.andi rd rs1 imm) ∧
      Yields (.andi rd rs1 imm) s rd (s.readReg rs1 &&& sext32 imm) (s.pc + 4#32)) ∧
    (decodeWord (wordI rd rs1 imm 0x58) = .ok (.ori rd rs1 imm) ∧
      Yields (.ori rd rs1 imm) s rd (s.readReg rs1 ||| sext32 imm) (s.pc + 4#32)) ∧
    (decodeWord (wordI rd rs1 imm 0x68) = .ok (.xori rd rs1 imm) ∧
      Yields (.xori rd rs1 imm) s rd (s.readReg rs1 ^^^ sext32 imm) (s.pc + 4#32)) ∧
    (decodeWord (wordI rd rs1 imm 0xC8) = .ok (.nandi rd rs1 imm) ∧
      Yields (.nandi rd rs1 imm) s rd (~~~(s.readReg rs1 &&& sext32 imm)) (s.pc + 4#32)) ∧
    (decodeWord (wordI rd rs1 imm 0xD8) = .ok (.nori rd rs1 imm) ∧
      Yields (.nori rd rs1 imm) s rd (~~~(s.readReg rs1 ||| sext32 imm)) (s.pc + 4#32)) ∧
    (decodeWord (wordI rd rs1 imm 0xE8) = .ok (.xnori rd rs1 imm) ∧
      Yields (.xnori rd rs1 imm) s rd (~~~(s.readReg rs1 ^^^ sext32 imm)) (s.pc + 4#32))

/-- 41_alu_i.md R129: `MVHI` puts the immediate in bits 31..16 and zeros below, which is the sign-extended immediate shifted
left by 16; no register is read; with bits 27:24 not zero the word is illegal. -/
def Obligations.MvhiResult : Prop :=
  ∀ (rd fb : RegIdx) (imm : Imm) (s : State),
    decodeWord (wordU rd imm 0xB8) = .ok (.mvhi rd imm) ∧
    Yields (.mvhi rd imm) s rd (BitVec.ofNat 32 (imm.toNat * 2 ^ 16)) (s.pc + 4#32) ∧
    BitVec.ofNat 32 (imm.toNat * 2 ^ 16) = sext32 imm <<< 16 ∧
    (fb ≠ 0 → fetch s = .ok (wordI rd fb imm 0xB8) →
      step s = .fault (.illegalInstruction s.pc (wordI rd fb imm 0xB8)))

/-- 00_scope.md R9: `sext_32` copies bit 15 into bits 31..16, so as a signed number it is the 16-bit number, and four times it
is a multiple of 4 in -131072 .. 131068 (30_encoding.md R77). -/
def Obligations.SignExtensionOfImmediates : Prop :=
  ∀ imm : Imm,
    (∀ k, k < 32 → (sext32 imm).getLsbD k = if k < 16 then imm.getLsbD k else imm.getLsbD 15) ∧
    (sext32 imm).toInt = imm.toInt ∧ (4#32 * sext32 imm).toInt = 4 * imm.toInt ∧
    -131072 ≤ (4#32 * sext32 imm).toInt ∧ (4#32 * sext32 imm).toInt ≤ 131068

/-- A 32-bit constant `K` is built by `MVHI` with `K[31:16] + K[15]` and `ADDI` with `K[15:0]`, in any state and register
(41_alu_i.md section 3). -/
def Obligations.ConstantBuiltInTwoInstructions : Prop :=
  ∀ (K : Word) (rd : RegIdx) (s : State), ∃ t u,
    exec (.mvhi rd (K.extractLsb' 16 16 + (K.extractLsb' 15 1).setWidth 16)) s = .next t ∧
    exec (.addi rd rd (K.extractLsb' 0 16)) t = .next u ∧
    WritesOnly s u rd K (s.pc + 8#32)

/-- Instructions that change nothing but `pc`, and the zero word, which is none of them: it doubles `R0` (30_encoding.md R86). -/
def Obligations.NoOperations : Prop :=
  ∀ (s : State) (r r' : RegIdx) (imm : Imm),
    exec (.bf r r' imm) s = .next (s.setPc (s.pc + 4#32)) ∧
    exec (.or r r r) s = .next (s.setPc (s.pc + 4#32)) ∧
    exec (.addi r r 0#16) s = .next (s.setPc (s.pc + 4#32)) ∧
    (fetch s = .ok 0x00000000#32 →
      ∃ t, step s = .next t ∧ WritesOnly s t 0 (2#32 * s.readReg 0) (s.pc + 4#32))

/-! ### Compares -/

/-- 43_cmp_r.md R151 to R158: each CMP-R word decodes to its instruction, which completes in every state with the full word 1 or
0 in `rd`; the ordered compares are signed. -/
def Obligations.CompareRegisterResults : Prop :=
  ∀ (rd rs1 rs2 : RegIdx) (s : State),
    (decodeWord (wordR rd rs1 rs2 0x02) = .ok (.f rd rs1 rs2) ∧
      Yields (.f rd rs1 rs2) s rd 0x00000000#32 (s.pc + 4#32)) ∧
    (decodeWord (wordR rd rs1 rs2 0x12) = .ok (.eq rd rs1 rs2) ∧
      Yields (.eq rd rs1 rs2) s rd (oneIf (s.readReg rs1 = s.readReg rs2)) (s.pc + 4#32)) ∧
    (decodeWord (wordR rd rs1 rs2 0x22) = .ok (.lt rd rs1 rs2) ∧
      Yields (.lt rd rs1 rs2) s rd (oneIf ((s.readReg rs1).toInt < (s.readReg rs2).toInt)) (s.pc + 4#32)) ∧
    (decodeWord (wordR rd rs1 rs2 0x32) = .ok (.lte rd rs1 rs2) ∧
      Yields (.lte rd rs1 rs2) s rd (oneIf ((s.readReg rs1).toInt ≤ (s.readReg rs2).toInt)) (s.pc + 4#32)) ∧
    (decodeWord (wordR rd rs1 rs2 0x82) = .ok (.t rd rs1 rs2) ∧
      Yields (.t rd rs1 rs2) s rd 0x00000001#32 (s.pc + 4#32)) ∧
    (decodeWord (wordR rd rs1 rs2 0x92) = .ok (.ne rd rs1 rs2) ∧
      Yields (.ne rd rs1 rs2) s rd (oneIf (s.readReg rs1 ≠ s.readReg rs2)) (s.pc + 4#32)) ∧
    (decodeWord (wordR rd rs1 rs2 0xA2) = .ok (.gte rd rs1 rs2) ∧
      Yields (.gte rd rs1 rs2) s rd (oneIf ((s.readReg rs1).toInt ≥ (s.readReg rs2).toInt)) (s.pc + 4#32)) ∧
    (decodeWord (wordR rd rs1 rs2 0xB2) = .ok (.gt rd rs1 rs2) ∧
      Yields (.gt rd rs1 rs2) s rd (oneIf ((s.readReg rs1).toInt > (s.readReg rs2).toInt)) (s.pc + 4#32))

/-- 44_cmp_i.md R171 to R178: each CMP-I word decodes to its instruction, which completes in every state; the immediate is
sign-extended before the comparison. -/
def Obligations.CompareImmediateResults : Prop :=
  ∀ (rd rs1 : RegIdx) (imm : Imm) (s : State),
    (decodeWord (wordI rd rs1 imm 0x0A) = .ok (.fi rd rs1 imm) ∧
      Yields (.fi rd rs1 imm) s rd 0x00000000#32 (s.pc + 4#32)) ∧
    (decodeWord (wordI rd rs1 imm 0x1A) = .ok (.eqi rd rs1 imm) ∧
      Yields (.eqi rd rs1 imm) s rd (oneIf (s.readReg rs1 = sext32 imm)) (s.pc + 4#32)) ∧
    (decodeWord (wordI rd rs1 imm 0x2A) = .ok (.lti rd rs1 imm) ∧
      Yields (.lti rd rs1 imm) s rd (oneIf ((s.readReg rs1).toInt < (sext32 imm).toInt)) (s.pc + 4#32)) ∧
    (decodeWord (wordI rd rs1 imm 0x3A) = .ok (.ltei rd rs1 imm) ∧
      Yields (.ltei rd rs1 imm) s rd (oneIf ((s.readReg rs1).toInt ≤ (sext32 imm).toInt)) (s.pc + 4#32)) ∧
    (decodeWord (wordI rd rs1 imm 0x8A) = .ok (.ti rd rs1 imm) ∧
      Yields (.ti rd rs1 imm) s rd 0x00000001#32 (s.pc + 4#32)) ∧
    (decodeWord (wordI rd rs1 imm 0x9A) = .ok (.nei rd rs1 imm) ∧
      Yields (.nei rd rs1 imm) s rd (oneIf (s.readReg rs1 ≠ sext32 imm)) (s.pc + 4#32)) ∧
    (decodeWord (wordI rd rs1 imm 0xAA) = .ok (.gtei rd rs1 imm) ∧
      Yields (.gtei rd rs1 imm) s rd (oneIf ((s.readReg rs1).toInt ≥ (sext32 imm).toInt)) (s.pc + 4#32)) ∧
    (decodeWord (wordI rd rs1 imm 0xBA) = .ok (.gti rd rs1 imm) ∧
      Yields (.gti rd rs1 imm) s rd (oneIf ((s.readReg rs1).toInt > (sext32 imm).toInt)) (s.pc + 4#32))

/-- Every legal word of the compare groups follows the one condition table of 43_cmp_r.md R150 by its function bits: `fn[1:0]`
names the condition and `fn[3]` negates it. -/
def Obligations.CompareWordsFollowConditionTable : Prop :=
  ∀ (s : State) (w : Word), fetch s = .ok w → ¬ OutsideTable w →
    (opOf w = 0b0010#4 → ∃ t, step s = .next t ∧ ∃ v,
      (bitCond (fnOf w) (s.readReg (fbOf w)) (s.readReg (fcOf w)) → v = 1#32) ∧
      (¬ bitCond (fnOf w) (s.readReg (fbOf w)) (s.readReg (fcOf w)) → v = 0#32) ∧
      WritesOnly s t (faOf w) v (s.pc + 4#32)) ∧
    (opOf w = 0b1010#4 → ∃ t, step s = .next t ∧ ∃ v,
      (bitCond (fnOf w) (s.readReg (fbOf w)) (sext32 (immOf w)) → v = 1#32) ∧
      (¬ bitCond (fnOf w) (s.readReg (fbOf w)) (sext32 (immOf w)) → v = 0#32) ∧
      WritesOnly s t (faOf w) v (s.pc + 4#32))

/-! ### Branches and JAL -/

/-- 45_branch.md R192 to R195, R199 to R202: each two-register branch word decodes to its instruction, which completes in every
state: `pc + 4 + 4 * sext_32(imm)` when the condition holds, else `pc + 4`; nothing else changes. -/
def Obligations.TwoRegisterBranches : Prop :=
  ∀ (rs1 rs2 : RegIdx) (imm : Imm) (s : State),
    (decodeWord (wordI rs1 rs2 imm 0x06) = .ok (.bf rs1 rs2 imm) ∧ BranchesWhen (.bf rs1 rs2 imm) s imm False) ∧
    (decodeWord (wordI rs1 rs2 imm 0x16) = .ok (.beq rs1 rs2 imm) ∧
      BranchesWhen (.beq rs1 rs2 imm) s imm (s.readReg rs1 = s.readReg rs2)) ∧
    (decodeWord (wordI rs1 rs2 imm 0x26) = .ok (.blt rs1 rs2 imm) ∧
      BranchesWhen (.blt rs1 rs2 imm) s imm ((s.readReg rs1).toInt < (s.readReg rs2).toInt)) ∧
    (decodeWord (wordI rs1 rs2 imm 0x36) = .ok (.blte rs1 rs2 imm) ∧
      BranchesWhen (.blte rs1 rs2 imm) s imm ((s.readReg rs1).toInt ≤ (s.readReg rs2).toInt)) ∧
    (decodeWord (wordI rs1 rs2 imm 0x86) = .ok (.bt rs1 rs2 imm) ∧ BranchesWhen (.bt rs1 rs2 imm) s imm True) ∧
    (decodeWord (wordI rs1 rs2 imm 0x96) = .ok (.bne rs1 rs2 imm) ∧
      BranchesWhen (.bne rs1 rs2 imm) s imm (s.readReg rs1 ≠ s.readReg rs2)) ∧
    (decodeWord (wordI rs1 rs2 imm 0xA6) = .ok (.bgte rs1 rs2 imm) ∧
      BranchesWhen (.bgte rs1 rs2 imm) s imm ((s.readReg rs1).toInt ≥ (s.readReg rs2).toInt)) ∧
    (decodeWord (wordI rs1 rs2 imm 0xB6) = .ok (.bgt rs1 rs2 imm) ∧
      BranchesWhen (.bgt rs1 rs2 imm) s imm ((s.readReg rs1).toInt > (s.readReg rs2).toInt))

/-- 45_branch.md R196 to R198, R203 to R205: each compare-with-zero branch word decodes to its instruction, which completes in
every state and compares with the constant zero; with bits 27:24 not zero the word is illegal. -/
def Obligations.CompareWithZeroBranches : Prop :=
  ∀ (rs1 : RegIdx) (imm : Imm) (s : State),
    (decodeWord (wordU rs1 imm 0x56) = .ok (.beqz rs1 imm) ∧
      BranchesWhen (.beqz rs1 imm) s imm (s.readReg rs1 = 0#32)) ∧
    (decodeWord (wordU rs1 imm 0x66) = .ok (.bltz rs1 imm) ∧
      BranchesWhen (.bltz rs1 imm) s imm ((s.readReg rs1).toInt < 0) ∧
      ((s.readReg rs1).toInt < 0 ↔ (s.readReg rs1).getLsbD 31 = true)) ∧
    (decodeWord (wordU rs1 imm 0x76) = .ok (.bltez rs1 imm) ∧
      BranchesWhen (.bltez rs1 imm) s imm ((s.readReg rs1).toInt ≤ 0)) ∧
    (decodeWord (wordU rs1 imm 0xD6) = .ok (.bnez rs1 imm) ∧
      BranchesWhen (.bnez rs1 imm) s imm (s.readReg rs1 ≠ 0#32)) ∧
    (decodeWord (wordU rs1 imm 0xE6) = .ok (.bgtez rs1 imm) ∧
      BranchesWhen (.bgtez rs1 imm) s imm ((s.readReg rs1).toInt ≥ 0) ∧
      ((s.readReg rs1).toInt ≥ 0 ↔ (s.readReg rs1).getLsbD 31 = false)) ∧
    (decodeWord (wordU rs1 imm 0xF6) = .ok (.bgtz rs1 imm) ∧
      BranchesWhen (.bgtz rs1 imm) s imm ((s.readReg rs1).toInt > 0)) ∧
    (∀ fb : RegIdx, fb ≠ 0 → ∀ code ∈ [0x56, 0x66, 0x76, 0xD6, 0xE6, 0xF6], fetch s = .ok (wordI rs1 fb imm code) →
      step s = .fault (.illegalInstruction s.pc (wordI rs1 fb imm code)))

/-- Every legal branch word follows the one condition table by its function bits: `fn[1:0]` names the condition, `fn[3]`
negates it, `fn[2]` puts the constant zero in place of the second register (30_encoding.md R83, 45_branch.md R190, R191). -/
def Obligations.BranchWordsFollowConditionTable : Prop :=
  ∀ (s : State) (w : Word), fetch s = .ok w → ¬ OutsideTable w → opOf w = 0b0110#4 →
    ∃ t, step s = .next t ∧ (∀ r, t.readReg r = s.readReg r) ∧ RestSame s t ∧
      (bitCond (fnOf w) (s.readReg (faOf w)) (if (fnOf w).getLsbD 2 then 0#32 else s.readReg (fbOf w)) →
        t.pc = s.pc + 4#32 + 4#32 * sext32 (immOf w)) ∧
      (¬ bitCond (fnOf w) (s.readReg (faOf w)) (if (fnOf w).getLsbD 2 then 0#32 else s.readReg (fbOf w)) →
        t.pc = s.pc + 4#32)

/-- 46_jal.md R220: `JAL` links `pc + 4` into `rd` and goes to the OLD `x[rs1]` plus the displacement in words, in every state
and with `rd` = `rs1` too; a bad target is the fault of the fetch that follows. -/
def Obligations.JalLinksAndJumps : Prop :=
  ∀ (rd rs1 : RegIdx) (imm : Imm) (s : State),
    decodeWord (wordI rd rs1 imm 0x0B) = .ok (.jal rd rs1 imm) ∧
    Yields (.jal rd rs1 imm) s rd (s.pc + 4#32) (s.readReg rs1 + 4#32 * sext32 imm) ∧
    (∀ t, exec (.jal rd rs1 imm) s = .next t →
      ((s.readReg rs1).toNat % 4 ≠ 0 → step t = .fault (.misalignedFetch (s.readReg rs1 + 4#32 * sext32 imm))) ∧
      ((s.readReg rs1).toNat % 4 = 0 → 0x2000 ≤ (s.readReg rs1 + 4#32 * sext32 imm).toNat →
        step t = .fault (.unmappedFetch (s.readReg rs1 + 4#32 * sext32 imm)))) ∧
    (∀ fn, 0 < fn → fn < 16 → fetch s = .ok (wordI rd rs1 imm (fn * 2 ^ 4 + 0x0B)) →
      step s = .fault (.illegalInstruction s.pc (wordI rd rs1 imm (fn * 2 ^ 4 + 0x0B))))

/-- Only `JAL`, and only through a misaligned base, takes an aligned `pc` to a misaligned one (10_state.md R26, 46_jal.md R221). -/
def Obligations.OnlyJalMisalignsPc : Prop :=
  ∀ s t : State, s.pc.toNat % 4 = 0 → step s = .next t → t.pc.toNat % 4 ≠ 0 →
    ∃ w rd rs1 imm, fetch s = .ok w ∧ decodeWord w = .ok (.jal rd rs1 imm) ∧ (s.readReg rs1).toNat % 4 ≠ 0

/-- 10_state.md R25: the ALU, compare, load and store groups end at `pc + 4`; a branch ends at `pc + 4` or, taken, at
`pc + 4 + 4 * sext_32(imm)`; `JAL` ends at `x[rs1] + 4 * sext_32(imm)`. Told by the primary opcode of the instruction's word. -/
def Obligations.PcAfterEachGroup : Prop :=
  ∀ (i : Instr) (s t : State), exec i s = .next t →
    (opOf (encode i) ≠ 0b0110#4 → opOf (encode i) ≠ 0b1011#4 → t.pc = s.pc + 4#32) ∧
    (opOf (encode i) = 0b0110#4 →
      (bitCond (fnOf (encode i)) (s.readReg (faOf (encode i)))
          (if (fnOf (encode i)).getLsbD 2 then 0#32 else s.readReg (fbOf (encode i))) →
        t.pc = s.pc + 4#32 + 4#32 * sext32 (immOf (encode i))) ∧
      (¬ bitCond (fnOf (encode i)) (s.readReg (faOf (encode i)))
          (if (fnOf (encode i)).getLsbD 2 then 0#32 else s.readReg (fbOf (encode i))) →
        t.pc = s.pc + 4#32)) ∧
    (opOf (encode i) = 0b1011#4 → t.pc = s.readReg (fbOf (encode i)) + 4#32 * sext32 (immOf (encode i)))

/-! ### Loads and stores -/

/-- 42_load_store.md R141, 20_memory.md R46: `LW` in every case: a RAM word that holds a value, the two inputs, and the three
faults, alignment checked first. -/
def Obligations.LoadWordInEveryCase : Prop :=
  ∀ (rd rs1 : RegIdx) (imm : Imm) (s : State) (ea : Word), ea = s.readReg rs1 + sext32 imm →
    decodeWord (wordI rd rs1 imm 0x09) = .ok (.lw rd rs1 imm) ∧
    (ea.toNat % 4 ≠ 0 → exec (.lw rd rs1 imm) s = .fault (.misalignedAccess ea)) ∧
    (∀ v, ea.toNat % 4 = 0 → ea.toNat < 0x2000 → s.mem.readWord ea.toNat = some v →
      Yields (.lw rd rs1 imm) s rd v (s.pc + 4#32)) ∧
    (ea.toNat % 4 = 0 → ea.toNat < 0x2000 → s.mem.readWord ea.toNat = none →
      exec (.lw rd rs1 imm) s = .fault (.undefinedRead ea)) ∧
    (ea = 0xF0000010#32 → LoadsInput 4 (.lw rd rs1 imm) s rd) ∧
    (ea = 0xF0000014#32 → LoadsInput 10 (.lw rd rs1 imm) s rd) ∧
    (ea.toNat % 4 = 0 → 0x2000 ≤ ea.toNat → ea ≠ 0xF0000010#32 → ea ≠ 0xF0000014#32 →
      exec (.lw rd rs1 imm) s = .fault (.unmappedAccess ea .load)) ∧
    (∀ fn, 0 < fn → fn < 16 → fetch s = .ok (wordI rd rs1 imm (fn * 2 ^ 4 + 0x09)) →
      step s = .fault (.illegalInstruction s.pc (wordI rd rs1 imm (fn * 2 ^ 4 + 0x09))))

/-- 20_memory.md R53: a load from `KEY` gives a 4-bit value, bits 31..4 zero; any of the 16 values may come, two successive
loads need not agree, and nothing but `rd`, `pc` and the inputs to come changes (the queue of inputs is the model's own form, log
entry 3). -/
def Obligations.KeyLoads : Prop :=
  ∀ (rd rs1 : RegIdx) (imm : Imm) (s : State), s.readReg rs1 + sext32 imm = 0xF0000010#32 →
    (∃ t, exec (.lw rd rs1 imm) s = .next t ∧ (t.readReg rd).toNat ≤ 0xF ∧ t.pc = s.pc + 4#32 ∧
      (∀ r, r ≠ rd → t.readReg r = s.readReg r) ∧ (∀ a, t.mem.readByte a = s.mem.readByte a) ∧
      t.mem = s.mem ∧ t.hex = s.hex ∧ t.ledr = s.ledr ∧ t.ledg = s.ledg ∧
      t.outputs = s.outputs ∧ t.stored = s.stored ∧ t.switchQueue = s.switchQueue ∧ t.switchDraws = s.switchDraws) ∧
    (∀ (k k' : BitVec 4) (rest : List (BitVec 4)), ∃ t, exec (.lw rd rs1 imm) (setKeyInputs (k :: k' :: rest) s) = .next t ∧
      (t.readReg rd).toNat = k.toNat ∧
      ∀ (rd' rs1' : RegIdx) (imm' : Imm), t.readReg rs1' + sext32 imm' = 0xF0000010#32 →
        ∃ u, exec (.lw rd' rs1' imm') t = .next u ∧ (u.readReg rd').toNat = k'.toNat) ∧
    (∀ k3 k2 k1 k0 : Bool, (keysPressed k3 k2 k1 k0).getLsbD 0 = k0 ∧ (keysPressed k3 k2 k1 k0).getLsbD 1 = k1 ∧
      (keysPressed k3 k2 k1 k0).getLsbD 2 = k2 ∧ (keysPressed k3 k2 k1 k0).getLsbD 3 = k3) ∧
    keysPressed false false false false = 0x0#4 ∧ keysPressed true true true true = 0xF#4

/-- 20_memory.md R54: a load from `SWITCH` gives a 10-bit value, bits 31..10 zero; any of the 1024 values may come (the
queue of inputs is the model's own form, log entry 3). -/
def Obligations.SwitchLoads : Prop :=
  ∀ (rd rs1 : RegIdx) (imm : Imm) (s : State), s.readReg rs1 + sext32 imm = 0xF0000014#32 →
    (∃ t, exec (.lw rd rs1 imm) s = .next t ∧ (t.readReg rd).toNat ≤ 0x3FF ∧ t.pc = s.pc + 4#32 ∧
      (∀ r, r ≠ rd → t.readReg r = s.readReg r) ∧ (∀ a, t.mem.readByte a = s.mem.readByte a) ∧
      t.mem = s.mem ∧ t.hex = s.hex ∧ t.ledr = s.ledr ∧ t.ledg = s.ledg ∧
      t.outputs = s.outputs ∧ t.stored = s.stored ∧ t.keyQueue = s.keyQueue ∧ t.keyDraws = s.keyDraws) ∧
    (∀ (k : BitVec 10) (rest : List (BitVec 10)), ∃ t, exec (.lw rd rs1 imm) (setSwitchInputs (k :: rest) s) = .next t ∧
      t.readReg rd = 0#22 ++ k)

/-- 42_load_store.md R142, 20_memory.md R47: `SW` in every case: a RAM word, which is then marked, the three output registers,
and the two faults, alignment checked first. Outside the four bytes stored, every byte of memory is as before. -/
def Obligations.StoreWordInEveryCase : Prop :=
  ∀ (rs1 rs2 : RegIdx) (imm : Imm) (s : State) (ea v : Word), ea = s.readReg rs1 + sext32 imm → v = s.readReg rs2 →
    decodeWord (wordI rs1 rs2 imm 0x05) = .ok (.sw rs1 rs2 imm) ∧
    (ea.toNat % 4 ≠ 0 → exec (.sw rs1 rs2 imm) s = .fault (.misalignedAccess ea)) ∧
    (ea.toNat % 4 = 0 → ea.toNat < 0x2000 → ∃ t, exec (.sw rs1 rs2 imm) s = .next t ∧
      t.mem.readWord ea.toNat = some v ∧
      (∀ k, k < 4 → t.mem.readByte (ea.toNat + k) = some (v.extractLsb' (8 * k) 8)) ∧
      (∀ a, a < ea.toNat ∨ ea.toNat + 4 ≤ a → t.mem.readByte a = s.mem.readByte a) ∧
      (∀ j, j ∈ t.stored ↔ j = ea.toNat / 4 ∨ j ∈ s.stored) ∧
      (∀ r, t.readReg r = s.readReg r) ∧ t.pc = s.pc + 4#32 ∧ t.hex = s.hex ∧ t.ledr = s.ledr ∧ t.ledg = s.ledg ∧
      t.outputs = s.outputs ∧ t.keyQueue = s.keyQueue ∧ t.switchQueue = s.switchQueue ∧ t.keyDraws = s.keyDraws ∧
      t.switchDraws = s.switchDraws) ∧
    (ea = 0xF0000000#32 →
      Shows (.sw rs1 rs2 imm) s (v.extractLsb' 0 16) s.ledr s.ledg) ∧
    (ea = 0xF0000004#32 →
      Shows (.sw rs1 rs2 imm) s s.hex (v.extractLsb' 0 10) s.ledg) ∧
    (ea = 0xF0000008#32 →
      Shows (.sw rs1 rs2 imm) s s.hex s.ledr (v.extractLsb' 0 8)) ∧
    (ea.toNat % 4 = 0 → 0x2000 ≤ ea.toNat → ea ≠ 0xF0000000#32 → ea ≠ 0xF0000004#32 → ea ≠ 0xF0000008#32 →
      exec (.sw rs1 rs2 imm) s = .fault (.unmappedAccess ea .store)) ∧
    (∀ fn, 0 < fn → fn < 16 → fetch s = .ok (wordI rs1 rs2 imm (fn * 2 ^ 4 + 0x05)) →
      step s = .fault (.illegalInstruction s.pc (wordI rs1 rs2 imm (fn * 2 ^ 4 + 0x05))))

/-- A store to RAM followed at once by a load from the same word, through any registers, returns the stored value
(20_memory.md R57, 70_reset_and_hazards.md R295). -/
def Obligations.StoreThenLoadReturnsValue : Prop :=
  ∀ (rs1 rs2 : RegIdx) (imm : Imm) (s : State),
    (s.readReg rs1 + sext32 imm).toNat % 4 = 0 → (s.readReg rs1 + sext32 imm).toNat < 0x2000 →
    ∃ t, exec (.sw rs1 rs2 imm) s = .next t ∧
      ∀ (rd rb : RegIdx) (imm' : Imm), t.readReg rb + sext32 imm' = s.readReg rs1 + sext32 imm →
        Yields (.lw rd rb imm') t rd (s.readReg rs2) (t.pc + 4#32)

/-- Once `SW` has written a RAM word, a fetch of it is `FetchAfterStore` at once and after any number of further steps: no
instruction synchronises fetch with stores (20_memory.md R59, R45). -/
def Obligations.StoredWordIsNeverFetched : Prop :=
  ∀ (rs1 rs2 : RegIdx) (imm : Imm) (s : State) (ea : Word), ea = s.readReg rs1 + sext32 imm →
    ea.toNat % 4 = 0 → ea.toNat < 0x2000 →
    ∃ t, exec (.sw rs1 rs2 imm) s = .next t ∧
      ∀ k u, Sys2Proof.core.run k t = .next u → fetch (u.setPc ea) = .error (.fetchAfterStore ea)

/-- 20_memory.md R40: no instruction but `LW` and `SW` touches memory: it leaves RAM, the marks and the output registers as they
are, and does the same whatever RAM holds. A `LW` changes none of them either. -/
def Obligations.OnlyLoadsAndStoresTouchMemory : Prop :=
  ∀ (i : Instr) (s : State), (∀ rs1 rs2 imm, i ≠ .sw rs1 rs2 imm) →
    (∀ t, exec i s = .next t → t.mem = s.mem ∧ (∀ a, t.mem.readByte a = s.mem.readByte a) ∧ t.stored = s.stored ∧
      t.hex = s.hex ∧ t.ledr = s.ledr ∧ t.ledg = s.ledg ∧ t.outputs = s.outputs) ∧
    ((∀ rd rs1 imm, i ≠ .lw rd rs1 imm) → ∀ (m : Memory) (marks : List Nat),
      exec i (withMemory m marks s) = mapNext (withMemory m marks) (exec i s))

/-- Every instruction but `LW` and `SW` completes in every state; those two complete or stop with one of their own faults at
their effective address; none is ever refused (60_exceptions.md R260, R262). -/
def Obligations.OnlyLoadsAndStoresStop : Prop :=
  ∀ (i : Instr) (s : State),
    (∃ t, exec i s = .next t) ∨
    (∃ rd rs1 imm, i = .lw rd rs1 imm ∧
      (exec i s = .fault (.misalignedAccess (s.readReg rs1 + sext32 imm)) ∨
        exec i s = .fault (.unmappedAccess (s.readReg rs1 + sext32 imm) .load) ∨
        exec i s = .fault (.undefinedRead (s.readReg rs1 + sext32 imm)))) ∨
    (∃ rs1 rs2 imm, i = .sw rs1 rs2 imm ∧
      (exec i s = .fault (.misalignedAccess (s.readReg rs1 + sext32 imm)) ∨
        exec i s = .fault (.unmappedAccess (s.readReg rs1 + sext32 imm) .store)))

/-! ### The board -/

/-- 20_memory.md R50, R51, R52: a store to an output register shows its low bits, the upper bits having no effect, and the
register keeps its value until the next store to the same address; the value is recorded (log entry 17). The order of the digits
is the spec's own inference (log entry 22). -/
def Obligations.OutputStoresShowOnTheBoard : Prop :=
  (∀ (rs1 rs2 : RegIdx) (imm : Imm) (s : State) (v : Word), v = s.readReg rs2 →
    (s.readReg rs1 + sext32 imm = 0xF0000000#32 → ∃ t, exec (.sw rs1 rs2 imm) s = .next t ∧ t.hex = v.extractLsb' 0 16 ∧
      t.outputs = s.outputs ++ [.hex (v.extractLsb' 0 16)] ∧
      hexDigits t = [v.extractLsb' 12 4, v.extractLsb' 8 4, v.extractLsb' 4 4, v.extractLsb' 0 4]) ∧
    (s.readReg rs1 + sext32 imm = 0xF0000004#32 → ∃ t, exec (.sw rs1 rs2 imm) s = .next t ∧ t.ledr = v.extractLsb' 0 10 ∧
      t.outputs = s.outputs ++ [.ledr (v.extractLsb' 0 10)] ∧ ∀ k : Fin 10, redLit t k = v.getLsbD k) ∧
    (s.readReg rs1 + sext32 imm = 0xF0000008#32 → ∃ t, exec (.sw rs1 rs2 imm) s = .next t ∧ t.ledg = v.extractLsb' 0 8 ∧
      t.outputs = s.outputs ++ [.ledg (v.extractLsb' 0 8)] ∧ ∀ k : Fin 8, greenLit t k = v.getLsbD k)) ∧
  (∀ (i : Instr) (s t : State), exec i s = .next t →
    (t.hex ≠ s.hex → ∃ rs1 rs2 imm, i = .sw rs1 rs2 imm ∧ s.readReg rs1 + sext32 imm = 0xF0000000#32) ∧
    (t.ledr ≠ s.ledr → ∃ rs1 rs2 imm, i = .sw rs1 rs2 imm ∧ s.readReg rs1 + sext32 imm = 0xF0000004#32) ∧
    (t.ledg ≠ s.ledg → ∃ rs1 rs2 imm, i = .sw rs1 rs2 imm ∧ s.readReg rs1 + sext32 imm = 0xF0000008#32))

/-- The recorded outputs only grow, by at most one store a step, and the displays are always what replaying the stores shows
(20_memory.md R56; the record is the model's own field, log entry 17). -/
def Obligations.OutputRecordReplaysDisplays : Prop :=
  ∀ (k : Nat) (s t : State), Sys2Proof.core.run k s = .next t →
    ∃ es, es.length ≤ k ∧ t.outputs = s.outputs ++ es ∧ displays t = es.foldl showEvent (displays s)

/-- Nothing in the ISA reads the output registers back (10_state.md R32). Two machines that differ only in what their
boards show stop alike, or go on to states that differ only in that, with the same new outputs. -/
def Obligations.DisplaysNeverInfluenceTheRun : Prop :=
  ∀ (k : Nat) (s s' : State), SameBehindBoard s s' →
    (∀ f, Sys2Proof.core.run k s = .fault f ↔ Sys2Proof.core.run k s' = .fault f) ∧
    ∀ t, Sys2Proof.core.run k s = .next t → ∃ t' es, Sys2Proof.core.run k s' = .next t' ∧ SameBehindBoard t t' ∧
      t.outputs = s.outputs ++ es ∧ t'.outputs = s'.outputs ++ es

/-- 70_reset_and_hazards.md R298: apart from loads from `KEY` and `SWITCH`, a step is a function of the machine's own state: the
inputs to come change nothing in it and are not used up by it. -/
def Obligations.InputsEnterOnlyThroughDeviceLoads : Prop :=
  ∀ (s : State) (ks : List (BitVec 4)) (ws : List (BitVec 10)) (kd wd : Nat),
    (∀ w rd rs1 imm, fetch s = .ok w → decodeWord w = .ok (.lw rd rs1 imm) →
      s.readReg rs1 + sext32 imm ≠ 0xF0000010#32 ∧ s.readReg rs1 + sext32 imm ≠ 0xF0000014#32) →
    step (withInputs ks ws kd wd s) = mapNext (withInputs ks ws kd wd) (step s)

/-- 70_reset_and_hazards.md R299: at a `BR -1` (the word 0x66FFFF16) the run is over: the hardware executes it for ever and no
step changes the state. -/
def Obligations.SelfBranchEndsTheRun : Prop :=
  ∀ s : State, fetch s = .ok 0x66FFFF16#32 → runOver s.pc s = true ∧ ∀ k, Sys2Proof.core.run k s = .next s

/-- 70_reset_and_hazards.md R299: a finished run ends on its first arrival at `haltPc`, so it has one length and one final state;
for all later time the machine stays there and changes nothing, but for the link a `JAL` to itself writes once (the reading of a
self-branch is the model's, log entry 20). -/
def Obligations.FinishedRunHasOneFinalState : Prop :=
  ∀ (haltPc : Word) (k : Nat) (s t : State), FinishesIn haltPc k s t →
    (∀ k' t', FinishesIn haltPc k' s t' → k' = k ∧ t' = t) ∧
    (∀ n, ∃ u, Sys2Proof.core.run n t = .next u ∧ u.pc = haltPc ∧ RestSame t u ∧
      ((∀ w rd rs1 imm, fetch t = .ok w → decodeWord w ≠ .ok (.jal rd rs1 imm)) → u = t) ∧
      (∀ w rd rs1 imm, fetch t = .ok w → decodeWord w = .ok (.jal rd rs1 imm) → ∀ r, r ≠ rd → u.readReg r = t.readReg r))

/-! ### The assembler -/

/-- The five pseudo-instructions of one word: their expansion, the word emitted and the effect of that word (47_pseudo.md R231,
R232, R235, R236, R237). -/
def Obligations.OneWordPseudoInstructions : Prop :=
  ∀ (rd rs : RegIdx) (imm : Imm) (s : State) (a b t : String),
    (expandPseudo "BR" [.text t] = some [("BEQ", [.text "R6", .text "R6", .text t])] ∧
      encode (.beq 6 6 imm) = BitVec.ofNat 32 (0x66000016 + imm.toNat * 2 ^ 8) ∧
      GoesTo (.beq 6 6 imm) s (s.pc + 4#32 + 4#32 * sext32 imm)) ∧
    (expandPseudo "NOT" [.text a, .text b] = some [("NAND", [.text a, .text b, .text b])] ∧
      encode (.nand rd rs rs) = wordR rd rs rs 0xC0 ∧
      Yields (.nand rd rs rs) s rd (~~~ s.readReg rs) (s.pc + 4#32)) ∧
    (expandPseudo "CALL" [.indexed t b] = some [("JAL", [.text "RA", .indexed t b])] ∧
      encode (.jal 15 rs imm) = wordI 15 rs imm 0x0B ∧
      Yields (.jal 15 rs imm) s 15 (s.pc + 4#32) (s.readReg rs + 4#32 * sext32 imm)) ∧
    (expandPseudo "RET" [] = some [("JAL", [.text "R9", .indexed "0" "RA"])] ∧
      encode (.jal 9 15 0#16) = 0x9F00000B#32 ∧
      Yields (.jal 9 15 0#16) s 9 (s.pc + 4#32) (s.readReg 15)) ∧
    (expandPseudo "JMP" [.indexed t b] = some [("JAL", [.text "R9", .indexed t b])] ∧
      encode (.jal 9 rs imm) = wordI 9 rs imm 0x0B ∧
      Yields (.jal 9 rs imm) s 9 (s.pc + 4#32) (s.readReg rs + 4#32 * sext32 imm))

/-- `BLE` and `BGE`, two words each: run from the first word, they leave the outcome of the signed comparison of the OLD
registers in `R6` and go to `P + 8 + 4 * sext_32(imm)` or `P + 8`; nothing else changes (47_pseudo.md R233, R234). -/
def Obligations.TwoWordPseudoInstructions : Prop :=
  (∀ a b t : String,
    expandPseudo "BLE" [.text a, .text b, .text t] =
      some [("LTE", [.text "R6", .text a, .text b]), ("BNEZ", [.text "R6", .text t])] ∧
    expandPseudo "BGE" [.text a, .text b, .text t] =
      some [("GTE", [.text "R6", .text a, .text b]), ("BNEZ", [.text "R6", .text t])]) ∧
  ∀ (rs1 rs2 : RegIdx) (imm : Imm) (s : State),
    s.pc.toNat % 4 = 0 → s.pc.toNat + 4 < 0x2000 →
    s.pc.toNat / 4 ∉ s.stored → s.pc.toNat / 4 + 1 ∉ s.stored →
    s.mem.readWord (s.pc.toNat + 4) = some (BitVec.ofNat 32 (0x600000D6 + imm.toNat * 2 ^ 8)) →
    (s.mem.readWord s.pc.toNat = some (wordR 6 rs1 rs2 0x32) →
      ∃ t, Sys2Proof.core.run 2 s = .next t ∧
        ((s.readReg rs1).toInt ≤ (s.readReg rs2).toInt →
          WritesOnly s t 6 1#32 (s.pc + 8#32 + 4#32 * sext32 imm)) ∧
        (¬ (s.readReg rs1).toInt ≤ (s.readReg rs2).toInt → WritesOnly s t 6 0#32 (s.pc + 8#32))) ∧
    (s.mem.readWord s.pc.toNat = some (wordR 6 rs1 rs2 0xA2) →
      ∃ t, Sys2Proof.core.run 2 s = .next t ∧
        ((s.readReg rs1).toInt ≥ (s.readReg rs2).toInt →
          WritesOnly s t 6 1#32 (s.pc + 8#32 + 4#32 * sext32 imm)) ∧
        (¬ (s.readReg rs1).toInt ≥ (s.readReg rs2).toInt → WritesOnly s t 6 0#32 (s.pc + 8#32)))

/-- 30_encoding.md R89: a number's low 16 bits become the field, if 16 bits can hold it signed or unsigned, and a wider number is
refused (log entry 21); for a branch or `JAL` too the number is the field itself; `0xffff` and `-1` give the same field. -/
def Obligations.NumbersBecomeFields : Prop :=
  (∀ n : Int, -32768 ≤ n → n ≤ 65535 → ∃ f, numberField n = .ok f ∧ (f.toNat : Int) = n % 65536) ∧
  (∀ n : Int, (n < -32768 ∨ 65535 < n) → numberField n = .error (.numberTooWide n)) ∧
  (∀ (use : ImmUse) (symbols : Symbols) (pc : Word) (t : String) (n : Int), readNumber t = some n →
    immField use symbols pc t = numberField n) ∧
  readNumber "0xffff" = some 65535 ∧ readNumber "-1" = some (-1) ∧
  numberField 65535 = .ok 0xFFFF#16 ∧ numberField (-1) = .ok 0xFFFF#16

/-- 30_encoding.md R90: the field of a label makes the instruction reach it: a branch from its own address, `JAL` from a base
register of zero, and the unscaled immediates give the address itself. Every branch in RAM reaches every word of RAM; a distance
that is no multiple of 4 or does not fit is refused, and so is a label in `MVHI` (the spec's decisions D14 to D16; that a distance is not taken modulo 2^32 is the model's
choice; log entry 21). -/
def Obligations.LabelsAreReached : Prop :=
  (∀ (pc label : Word) (f : Imm), labelField .pcRelative pc label = .ok f → pc + 4#32 + 4#32 * sext32 f = label) ∧
  (∀ pc label : Word, (∃ f, labelField .pcRelative pc label = .ok f) ↔
    (((label.toNat : Int) - pc.toNat - 4) % 4 = 0 ∧ -32768 ≤ ((label.toNat : Int) - pc.toNat - 4) / 4 ∧
      ((label.toNat : Int) - pc.toNat - 4) / 4 ≤ 32767)) ∧
  (∀ pc label : Word, pc.toNat % 4 = 0 → label.toNat % 4 = 0 → pc.toNat < 0x2000 → label.toNat < 0x2000 →
    ∃ f, labelField .pcRelative pc label = .ok f) ∧
  (∀ pc label : Word, label.toNat % 4 = 0 → label.toNat < 0x2000 →
    ∃ f, labelField .wordAddress pc label = .ok f ∧ f.toNat = label.toNat / 4 ∧ 0#32 + 4#32 * sext32 f = label) ∧
  (∀ pc label : Word, label.toNat % 4 ≠ 0 → ∃ e, labelField .wordAddress pc label = .error e) ∧
  (∀ pc label : Word, ∃ f, labelField .lowHalf pc label = .ok f ∧ f.toNat = label.toNat % 2 ^ 16 ∧
    (label.toNat < 0x2000 → sext32 f = label)) ∧
  (∀ pc label : Word, labelField .highHalf pc label = .error .labelInHighHalf)

/-- Whatever source the assembler accepts, the image has 2048 entries: its defined ones are listed once each, in order,
below 2048 (47_pseudo.md R244), and so it loads into a machine that meets the invariant. -/
def Obligations.AssembledImagesFitRam : Prop :=
  ∀ (source : List Line) (im : Image), assemble source = .ok im →
    ImageValid im ∧ (imageEntries im).length = 2048 ∧ (∀ i, 2048 ≤ i → imageEntry im i = none)

/-- Every name of every register, in capitals and in small letters, and each register's role in the software convention
(10_state.md R22). -/
def Obligations.RegisterNamesAndRoles : Prop :=
  (∀ p ∈ [("R0", "r0", 0), ("R1", "r1", 1), ("R2", "r2", 2), ("R3", "r3", 3), ("R4", "r4", 4), ("R5", "r5", 5),
      ("R6", "r6", 6), ("R7", "r7", 7), ("R8", "r8", 8), ("R9", "r9", 9), ("R10", "r10", 10), ("R11", "r11", 11),
      ("R12", "r12", 12), ("R13", "r13", 13), ("R14", "r14", 14), ("R15", "r15", (15 : RegIdx))] ++
    [("A0", "a0", 0), ("A1", "a1", 1), ("A2", "a2", 2), ("A3", "a3", 3), ("RV", "rv", 3), ("T0", "t0", 4),
      ("T1", "t1", 5), ("S0", "s0", 6), ("S1", "s1", 7), ("S2", "s2", 8), ("GP", "gp", 12), ("FP", "fp", 13),
      ("SP", "sp", 14), ("RA", "ra", (15 : RegIdx))],
    readRegister p.1 = .ok p.2.2 ∧ readRegister p.2.1 = .ok p.2.2) ∧
  (List.finRange 16).map registerRole =
    [.argument, .argument, .argument, .argument, .temporary, .temporary, .savedValue, .savedValue, .savedValue,
      .assemblerUse, .systemUse, .systemUse, .globalPointer, .framePointer, .stackPointer, .returnAddress]
end

