-- ==== Sys2Proof/Laws/Decode.lean ====
section
/-! SUPPORT. The fields of the packed formats, read back: what every encoding lemma is assembled from. -/

namespace Sys2Proof

/-- A concatenation as a number. -/
theorem append_toNat {m n : Nat} (x : BitVec m) (y : BitVec n) : (x ++ y).toNat = x.toNat * 2 ^ n + y.toNat := by
  rw [BitVec.toNat_append, ← Nat.shiftLeft_add_eq_or_of_lt y.isLt, Nat.shiftLeft_eq]

/-- A field as a number. -/
theorem field_toNat {n : Nat} (w : BitVec n) (lo len : Nat) : (w.extractLsb' lo len).toNat = w.toNat / 2 ^ lo % 2 ^ len := by
  rw [BitVec.extractLsb'_toNat, Nat.shiftRight_eq_div_pow]

@[simp] theorem regBits_toNat (r : RegIdx) : (regBits r).toNat = r.val := rfl

/-! ### The packed words as numbers -/

theorem packR_toNat (a b c : RegIdx) (fn op : BitVec 4) :
    (packR a b c fn op).toNat = a.val * 2 ^ 28 + b.val * 2 ^ 24 + c.val * 2 ^ 20 + fn.toNat * 2 ^ 4 + op.toNat := by
  simp only [packR, append_toNat, regBits_toNat, BitVec.toNat_ofNat]
  omega

theorem packI_toNat (a b : RegIdx) (imm : Imm) (fn op : BitVec 4) :
    (packI a b imm fn op).toNat = a.val * 2 ^ 28 + b.val * 2 ^ 24 + imm.toNat * 2 ^ 8 + fn.toNat * 2 ^ 4 + op.toNat := by
  simp only [packI, append_toNat, regBits_toNat]
  omega

theorem packU_toNat (a : RegIdx) (imm : Imm) (fn op : BitVec 4) :
    (packU a imm fn op).toNat = a.val * 2 ^ 28 + imm.toNat * 2 ^ 8 + fn.toNat * 2 ^ 4 + op.toNat := by
  simp only [packU, append_toNat, regBits_toNat, BitVec.toNat_ofNat]
  omega

/-- Format U is format I with register 0 in the second slot, which is no reference to `R0`. -/
theorem packU_eq_packI (a : RegIdx) (imm : Imm) (fn op : BitVec 4) : packU a imm fn op = packI a 0 imm fn op := by
  apply BitVec.eq_of_toNat_eq
  simp [packU_toNat, packI_toNat]

/-! ### Fields of format R -/

@[simp] theorem opOf_packR (a b c : RegIdx) (fn op : BitVec 4) : opOf (packR a b c fn op) = op := by
  apply BitVec.eq_of_toNat_eq
  rw [opOf, field_toNat, packR_toNat]; omega

@[simp] theorem fnOf_packR (a b c : RegIdx) (fn op : BitVec 4) : fnOf (packR a b c fn op) = fn := by
  apply BitVec.eq_of_toNat_eq
  rw [fnOf, field_toNat, packR_toNat]; omega

@[simp] theorem z12Of_packR (a b c : RegIdx) (fn op : BitVec 4) : z12Of (packR a b c fn op) = 0#12 := by
  apply BitVec.eq_of_toNat_eq
  rw [z12Of, field_toNat, packR_toNat, BitVec.toNat_ofNat]; omega

@[simp] theorem faOf_packR (a b c : RegIdx) (fn op : BitVec 4) : faOf (packR a b c fn op) = a := by
  apply Fin.ext
  show ((packR a b c fn op).extractLsb' 28 4).toNat = a.val
  rw [field_toNat, packR_toNat]; omega

@[simp] theorem fbOf_packR (a b c : RegIdx) (fn op : BitVec 4) : fbOf (packR a b c fn op) = b := by
  apply Fin.ext
  show ((packR a b c fn op).extractLsb' 24 4).toNat = b.val
  rw [field_toNat, packR_toNat]; omega

@[simp] theorem fcOf_packR (a b c : RegIdx) (fn op : BitVec 4) : fcOf (packR a b c fn op) = c := by
  apply Fin.ext
  show ((packR a b c fn op).extractLsb' 20 4).toNat = c.val
  rw [field_toNat, packR_toNat]; omega

/-! ### Fields of formats I and S, and of U and Z -/

@[simp] theorem opOf_packI (a b : RegIdx) (imm : Imm) (fn op : BitVec 4) : opOf (packI a b imm fn op) = op := by
  apply BitVec.eq_of_toNat_eq
  rw [opOf, field_toNat, packI_toNat]; omega

@[simp] theorem fnOf_packI (a b : RegIdx) (imm : Imm) (fn op : BitVec 4) : fnOf (packI a b imm fn op) = fn := by
  apply BitVec.eq_of_toNat_eq
  rw [fnOf, field_toNat, packI_toNat]; omega

@[simp] theorem immOf_packI (a b : RegIdx) (imm : Imm) (fn op : BitVec 4) : immOf (packI a b imm fn op) = imm := by
  apply BitVec.eq_of_toNat_eq
  rw [immOf, field_toNat, packI_toNat]; omega

@[simp] theorem faOf_packI (a b : RegIdx) (imm : Imm) (fn op : BitVec 4) : faOf (packI a b imm fn op) = a := by
  apply Fin.ext
  show ((packI a b imm fn op).extractLsb' 28 4).toNat = a.val
  rw [field_toNat, packI_toNat]; omega

@[simp] theorem fbOf_packI (a b : RegIdx) (imm : Imm) (fn op : BitVec 4) : fbOf (packI a b imm fn op) = b := by
  apply Fin.ext
  show ((packI a b imm fn op).extractLsb' 24 4).toNat = b.val
  rw [field_toNat, packI_toNat]; omega

@[simp] theorem opOf_packU (a : RegIdx) (imm : Imm) (fn op : BitVec 4) : opOf (packU a imm fn op) = op := by
  simp [packU_eq_packI]

@[simp] theorem fnOf_packU (a : RegIdx) (imm : Imm) (fn op : BitVec 4) : fnOf (packU a imm fn op) = fn := by
  simp [packU_eq_packI]

@[simp] theorem immOf_packU (a : RegIdx) (imm : Imm) (fn op : BitVec 4) : immOf (packU a imm fn op) = imm := by
  simp [packU_eq_packI]

@[simp] theorem faOf_packU (a : RegIdx) (imm : Imm) (fn op : BitVec 4) : faOf (packU a imm fn op) = a := by
  simp [packU_eq_packI]

@[simp] theorem fbOf_packU (a : RegIdx) (imm : Imm) (fn op : BitVec 4) : fbOf (packU a imm fn op) = 0 := by
  simp [packU_eq_packI]

/-! ### A word from its fields -/

/-- A word with zeros in bits 19:8 is the format R word of its fields. -/
theorem packR_fields (w : Word) (h : z12Of w = 0#12) : packR (faOf w) (fbOf w) (fcOf w) (fnOf w) (opOf w) = w := by
  have hz := congrArg BitVec.toNat h
  rw [z12Of, field_toNat, BitVec.toNat_ofNat] at hz
  apply BitVec.eq_of_toNat_eq
  rw [packR_toNat]
  show (w.extractLsb' 28 4).toNat * _ + (w.extractLsb' 24 4).toNat * _ + (w.extractLsb' 20 4).toNat * _ +
    (w.extractLsb' 4 4).toNat * _ + (w.extractLsb' 0 4).toNat = w.toNat
  simp only [field_toNat]
  omega

/-- Every word is the format I word of its fields. -/
theorem packI_fields (w : Word) : packI (faOf w) (fbOf w) (immOf w) (fnOf w) (opOf w) = w := by
  apply BitVec.eq_of_toNat_eq
  rw [packI_toNat]
  show (w.extractLsb' 28 4).toNat * _ + (w.extractLsb' 24 4).toNat * _ + (w.extractLsb' 8 16).toNat * _ +
    (w.extractLsb' 4 4).toNat * _ + (w.extractLsb' 0 4).toNat = w.toNat
  simp only [field_toNat]
  omega

/-- A word with zeros in bits 27:24 is the format U word of its fields. -/
theorem packU_fields (w : Word) (h : fbOf w = 0) : packU (faOf w) (immOf w) (fnOf w) (opOf w) = w := by
  rw [packU_eq_packI, ← h, packI_fields]

/-! ### The masks of the opcode table -/

/-- A masked word as its two lowest fields and the rest of the mask. -/
theorem mask_low (w : Word) : w &&& 0x000000FF#32 = 0#24 ++ (fnOf w ++ opOf w) := by
  have e : (0#24 ++ (fnOf w ++ opOf w) : BitVec 32) = 0#24 ++ w.extractLsb' 0 8 := by
    apply BitVec.eq_of_toNat_eq
    simp only [append_toNat, fnOf, opOf, field_toNat, BitVec.toNat_ofNat]
    omega
  rw [e]
  apply BitVec.eq_of_toNat_eq
  simp only [append_toNat, field_toNat, BitVec.toNat_ofNat, BitVec.toNat_and]
  have := Nat.and_two_pow_sub_one_eq_mod w.toNat 8
  simp at this ⊢
  omega

theorem packR_masked (a b c : RegIdx) (fn op : BitVec 4) :
    packR a b c fn op &&& 0x000FFFFF#32 = 0#12 ++ 0#12 ++ (fn ++ op) := by
  apply BitVec.eq_of_toNat_eq
  have := Nat.and_two_pow_sub_one_eq_mod (packR a b c fn op).toNat 20
  simp only [append_toNat, BitVec.toNat_ofNat, BitVec.toNat_and]
  rw [packR_toNat] at *
  simp at this ⊢
  omega

theorem packI_masked (a b : RegIdx) (imm : Imm) (fn op : BitVec 4) :
    packI a b imm fn op &&& 0x000000FF#32 = 0#24 ++ (fn ++ op) := by
  simp [mask_low]

theorem packU_masked (a : RegIdx) (imm : Imm) (fn op : BitVec 4) :
    packU a imm fn op &&& 0x0F0000FF#32 = 0#24 ++ (fn ++ op) := by
  apply BitVec.eq_of_getLsbD_eq
  intro i hi
  simp only [packU, BitVec.getLsbD_and, BitVec.getLsbD_append]
  have hm : ∀ j : Fin 32, (0x0F0000FF#32).getLsbD j = (decide (j.val < 8) || decide (24 ≤ j.val ∧ j.val < 28)) := by decide
  have hmi := hm ⟨i, hi⟩
  simp only at hmi
  rw [hmi]
  by_cases h0 : i < 4
  · simp [h0, show i < 8 by omega]
  · by_cases h1 : i < 8
    · simp [h0, h1, show i - 4 < 4 by omega]
    · by_cases h2 : 24 ≤ i ∧ i < 28
      · simp [h0, h2, show ¬ i - 4 < 4 by omega, show ¬ i - 8 < 16 by omega, show i - 24 < 4 by omega,
          Nat.sub_sub, show ¬ i < 8 by omega]
      · simp [h1, h2]

/-! ### Rejections -/

/-- A decoded word is one of the table's instructions or rejected: decoding is total by its type. -/
theorem orUnassigned_ok {w : Word} {o : Option Instr} {i : Instr} : orUnassigned w o = .ok i ↔ o = some i := by
  cases o <;> simp [orUnassigned]

theorem requireFiller_ok {w : Word} {e : Except DecodeError Instr} {i : Instr} :
    requireFiller w e = .ok i ↔ z12Of w = 0#12 ∧ e = .ok i := by
  unfold requireFiller; split <;> simp_all

theorem requireSlot_ok {w : Word} {e : Except DecodeError Instr} {i : Instr} :
    requireSlot w e = .ok i ↔ fbOf w = 0 ∧ e = .ok i := by
  unfold requireSlot; split <;> simp_all

end Sys2Proof
end

