-- ==== Sys2Proof/Laws/Memory.lean ====
section
/-! SUPPORT. The laws of memory: read after write, and that every memory operation keeps the canonical form, stays in RAM and
keeps words whole; the same for the list of stored-to marks. -/

namespace Sys2Proof.Machine

/-! ### One byte -/

theorem readByte_writeByte_same (m : Memory) (a : Nat) (v : Byte) : (m.writeByte a v).readByte a = some v := by
  induction m with
  | nil => simp [Memory.writeByte, Memory.readByte]
  | cons c m ih =>
    obtain ⟨k, b⟩ := c
    simp only [Memory.writeByte]
    split
    · simp [Memory.readByte]
    · split
      · simp [Memory.readByte]
      · rename_i h₁ h₂
        have : k ≠ a := fun e => h₂ e.symm
        simp [Memory.readByte, this, ih]

theorem readByte_writeByte_other (m : Memory) (a b : Nat) (v : Byte) (h : b ≠ a) :
    (m.writeByte a v).readByte b = m.readByte b := by
  have h' : a ≠ b := fun e => h e.symm
  induction m with
  | nil => simp [Memory.writeByte, Memory.readByte, h']
  | cons c m ih =>
    obtain ⟨k, x⟩ := c
    simp only [Memory.writeByte]
    split
    · simp [Memory.readByte, h']
    · split
      · rename_i h₁ h₂
        subst h₂
        simp [Memory.readByte, h']
      · simp [Memory.readByte, ih]

/-- A byte after a write of one byte, at any address. -/
theorem readByte_writeByte (m : Memory) (a b : Nat) (v : Byte) :
    (m.writeByte a v).readByte b = if b = a then some v else m.readByte b := by
  by_cases h : b = a
  · subst h; simp [readByte_writeByte_same]
  · simp [readByte_writeByte_other m a b v h, h]

/-- What a write of one byte lists: the new cell, or a cell that was there. -/
theorem mem_writeByte {m : Memory} {a : Nat} {v : Byte} {c : Host.Cell} (h : c ∈ m.writeByte a v) :
    c = (a, v) ∨ c ∈ m := by
  induction m with
  | nil => exact .inl (by simpa [Memory.writeByte] using h)
  | cons d m ih =>
    obtain ⟨k, x⟩ := d
    simp only [Memory.writeByte] at h
    split at h
    · simpa using h
    · split at h
      · rcases List.mem_cons.mp h with h | h
        · exact .inl h
        · exact .inr (List.mem_cons_of_mem _ h)
      · rcases List.mem_cons.mp h with h | h
        · exact .inr (by simp [h])
        · rcases ih h with h | h
          · exact .inl h
          · exact .inr (List.mem_cons_of_mem _ h)

/-- Writing a byte keeps the canonical form. -/
theorem wf_writeByte {m : Memory} (a : Nat) (v : Byte) (h : m.wf) : (m.writeByte a v).wf := by
  induction m with
  | nil => simp [Memory.writeByte]
  | cons c m ih =>
    obtain ⟨k, x⟩ := c
    obtain ⟨hk, hm⟩ := List.pairwise_cons.mp h
    simp only [Memory.writeByte]
    split
    · rename_i hlt
      refine List.pairwise_cons.mpr ⟨fun d hd => ?_, h⟩
      rcases List.mem_cons.mp hd with rfl | hd
      · exact hlt
      · exact Nat.lt_trans hlt (hk d hd)
    · split
      · rename_i h₁ h₂
        subst h₂
        exact List.pairwise_cons.mpr ⟨fun d hd => hk d hd, hm⟩
      · rename_i h₁ h₂
        refine List.pairwise_cons.mpr ⟨fun d hd => ?_, ih hm⟩
        rcases mem_writeByte hd with rfl | hd
        · exact Nat.lt_of_le_of_ne (Nat.le_of_not_lt h₁) (fun e => h₂ e.symm)
        · exact hk d hd

/-- In a canonical memory a listed cell is what its address reads as. -/
theorem readByte_of_mem {m : Memory} (h : m.wf) {c : Host.Cell} (hc : c ∈ m) : m.readByte c.1 = some c.2 := by
  induction m with
  | nil => simp at hc
  | cons d m ih =>
    obtain ⟨k, x⟩ := d
    obtain ⟨hk, hm⟩ := List.pairwise_cons.mp h
    rcases List.mem_cons.mp hc with rfl | hc
    · simp [Memory.readByte]
    · have : k ≠ c.1 := Nat.ne_of_lt (hk c hc)
      simp [Memory.readByte, this, ih hm hc]

/-- What an address reads as is a listed cell. -/
theorem mem_of_readByte {m : Memory} {a : Nat} {v : Byte} (h : m.readByte a = some v) : (a, v) ∈ m := by
  induction m with
  | nil => simp [Memory.readByte] at h
  | cons d m ih =>
    obtain ⟨k, x⟩ := d
    simp only [Memory.readByte] at h
    split at h
    · rename_i hk
      subst hk
      simp_all
    · exact List.mem_cons_of_mem _ (ih h)

/-- Canonical memories that read alike everywhere are equal lists. -/
theorem memory_ext {m n : Memory} (hm : m.wf) (hn : n.wf) (h : ∀ a, m.readByte a = n.readByte a) : m = n := by
  induction m generalizing n with
  | nil =>
    cases n with
    | nil => rfl
    | cons d n => simpa [Memory.readByte] using h d.1
  | cons c m ih =>
    obtain ⟨hc, hm'⟩ := List.pairwise_cons.mp hm
    cases n with
    | nil => simpa [Memory.readByte] using h c.1
    | cons d n =>
      obtain ⟨hd, hn'⟩ := List.pairwise_cons.mp hn
      have hc₁ : c ∈ d :: n := by
        have := h c.1
        rw [readByte_of_mem hm (by simp)] at this
        exact mem_of_readByte this.symm
      have hd₁ : d ∈ c :: m := by
        have := h d.1
        rw [readByte_of_mem hn (by simp)] at this
        exact mem_of_readByte this
      have hcd : c = d := by
        rcases List.mem_cons.mp hc₁ with e | hcn
        · exact e
        · rcases List.mem_cons.mp hd₁ with e | hdm
          · exact e.symm
          · exact absurd (Nat.lt_trans (hd c hcn) (hc d hdm)) (Nat.lt_irrefl _)
      subst hcd
      congr 1
      refine ih hm' hn' (fun a => ?_)
      have := h a
      simp only [Memory.readByte] at this
      by_cases e : c.1 = a
      · have hm₀ : Memory.readByte m a = none := by
          cases hr : Memory.readByte m a with
          | none => rfl
          | some v => exact absurd (hc _ (mem_of_readByte hr)) (by simp [e])
        have hn₀ : Memory.readByte n a = none := by
          cases hr : Memory.readByte n a with
          | none => rfl
          | some v => exact absurd (hd _ (mem_of_readByte hr)) (by simp [e])
        rw [hm₀, hn₀]
      · simpa [e] using this

/-! ### One word -/

/-- A word's store is four byte stores, the lowest byte first. -/
theorem writeWord_eq (m : Memory) (a : Nat) (v : Word) :
    m.writeWord a v = (((m.writeByte a (v.extractLsb' 0 8)).writeByte (a + 1) (v.extractLsb' 8 8)).writeByte (a + 2)
      (v.extractLsb' 16 8)).writeByte (a + 3) (v.extractLsb' 24 8) := by
  simp [Memory.writeWord, bytesOfWord, Memory.writeBytes, Nat.add_assoc]

/-- The four bytes of a word, put together again, are the word (20_memory.md R43). -/
theorem wordOfBytes_bytesOfWord (v : Word) :
    wordOfBytes (v.extractLsb' 0 8) (v.extractLsb' 8 8) (v.extractLsb' 16 8) (v.extractLsb' 24 8) = v := by
  apply BitVec.eq_of_getLsbD_eq
  intro i hi
  simp only [wordOfBytes, BitVec.getLsbD_append, BitVec.getLsbD_extractLsb']
  by_cases h0 : i < 8
  · simp [h0]
  · by_cases h1 : i < 16
    · have : i - 8 < 8 := by omega
      have e : 8 + (i - 8) = i := by omega
      simp [h0, this, e]
    · by_cases h2 : i < 24
      · have n1 : ¬ i - 8 < 8 := by omega
        have : i - 16 < 8 := by omega
        have e : 16 + (i - 16) = i := by omega
        simp [h0, n1, Nat.sub_sub, this, e]
      · have n1 : ¬ i - 8 < 8 := by omega
        have n2 : ¬ i - 16 < 8 := by omega
        have : i - 24 < 8 := by omega
        have e : 24 + (i - 24) = i := by omega
        simp [h0, n1, n2, Nat.sub_sub, this, e]

theorem readWord_writeWord_same (m : Memory) (a : Nat) (v : Word) : (m.writeWord a v).readWord a = some v := by
  rw [writeWord_eq]
  simp [Memory.readWord, readByte_writeByte, wordOfBytes_bytesOfWord]

/-- A store of a word leaves every byte outside its four bytes alone. -/
theorem readByte_writeWord_other (m : Memory) (a b : Nat) (v : Word) (h : b < a ∨ a + 4 ≤ b) :
    (m.writeWord a v).readByte b = m.readByte b := by
  rw [writeWord_eq]
  have h0 : b ≠ a := by omega
  have h1 : b ≠ a + 1 := by omega
  have h2 : b ≠ a + 2 := by omega
  have h3 : b ≠ a + 3 := by omega
  simp [readByte_writeByte, h0, h1, h2, h3]

/-- The four bytes of a stored word hold a value. -/
theorem readByte_writeWord_isSome (m : Memory) (a b : Nat) (v : Word) (h : a ≤ b ∧ b < a + 4) :
    ((m.writeWord a v).readByte b).isSome = true := by
  rw [writeWord_eq]
  have : b = a ∨ b = a + 1 ∨ b = a + 2 ∨ b = a + 3 := by omega
  rcases this with rfl | rfl | rfl | rfl <;> simp [readByte_writeByte]

/-- A word that shares no byte with a stored word reads as before. -/
theorem readWord_writeWord_other (m : Memory) (a b : Nat) (v : Word) (h : b + 4 ≤ a ∨ a + 4 ≤ b) :
    (m.writeWord a v).readWord b = m.readWord b := by
  simp only [Memory.readWord]
  rw [readByte_writeWord_other m a b v (by omega), readByte_writeWord_other m a (b + 1) v (by omega),
    readByte_writeWord_other m a (b + 2) v (by omega), readByte_writeWord_other m a (b + 3) v (by omega)]

/-- A word holds a value exactly when its four bytes do. -/
theorem readWord_isSome (m : Memory) (a : Nat) :
    (m.readWord a).isSome = ((m.readByte a).isSome && (m.readByte (a + 1)).isSome && (m.readByte (a + 2)).isSome
      && (m.readByte (a + 3)).isSome) := by
  unfold Memory.readWord
  cases m.readByte a <;> cases m.readByte (a + 1) <;> cases m.readByte (a + 2) <;> cases m.readByte (a + 3) <;> rfl

/-! ### What every memory operation keeps -/

/-- Writing a word keeps the canonical form. -/
theorem wf_writeWord {m : Memory} (a : Nat) (v : Word) (h : m.wf) : (m.writeWord a v).wf := by
  rw [writeWord_eq]
  exact wf_writeByte _ _ (wf_writeByte _ _ (wf_writeByte _ _ (wf_writeByte _ _ h)))

/-- Writing a word that lies in RAM keeps memory in RAM. -/
theorem inRam_writeWord {m : Memory} (a : Nat) (v : Word) (ha : a + 3 < Config.ramBytes) (h : m.inRam) :
    (m.writeWord a v).inRam := by
  rw [writeWord_eq]
  intro c hc
  rcases mem_writeByte hc with rfl | hc
  · exact ha
  rcases mem_writeByte hc with rfl | hc
  · exact Nat.lt_of_le_of_lt (by simp) ha
  rcases mem_writeByte hc with rfl | hc
  · exact Nat.lt_of_le_of_lt (by simp) ha
  rcases mem_writeByte hc with rfl | hc
  · exact Nat.lt_of_le_of_lt (by simp) ha
  · exact h c hc

/-- Writing an aligned word keeps words whole. -/
theorem wordWhole_writeWord {m : Memory} (a : Nat) (v : Word) (ha : a % 4 = 0) (h : m.wordWhole) :
    (m.writeWord a v).wordWhole := by
  intro b
  by_cases hb : a ≤ b ∧ b < a + 4
  · rw [readByte_writeWord_isSome m a b v hb, readByte_writeWord_isSome m a _ v (by omega)]
  · rw [readByte_writeWord_other m a b v (by omega), readByte_writeWord_other m a _ v (by omega)]
    exact h b

/-- A store of an aligned RAM word keeps a valid memory valid. -/
theorem valid_writeWord {m : Memory} (a : Nat) (v : Word) (ha : a % 4 = 0) (hr : a < Config.ramBytes)
    (h : m.Valid) : (m.writeWord a v).Valid := by
  have : a + 3 < Config.ramBytes := by unfold Config.ramBytes at *; omega
  exact ⟨wf_writeWord a v h.1, inRam_writeWord a v this h.2.1, wordWhole_writeWord a v ha h.2.2⟩

/-- Memory with nothing listed, as after reset with no image. -/
theorem valid_empty : Memory.Valid [] :=
  ⟨List.Pairwise.nil, fun _ h => by simp at h, fun _ => rfl⟩

/-! ### Stored-to marks -/

theorem mem_insertMark {l : List Nat} {i j : Nat} : j ∈ insertMark l i ↔ j = i ∨ j ∈ l := by
  induction l with
  | nil => simp [insertMark]
  | cons k l ih =>
    simp only [insertMark]
    split
    · simp
    · split
      · rename_i h; subst h; simp
      · simp only [List.mem_cons, ih]
        constructor
        · rintro (h | h | h) <;> simp [h]
        · rintro (h | h | h) <;> simp [h]

theorem pairwise_insertMark {l : List Nat} (i : Nat) (h : l.Pairwise (· < ·)) : (insertMark l i).Pairwise (· < ·) := by
  induction l with
  | nil => simp [insertMark]
  | cons k l ih =>
    obtain ⟨hk, hl⟩ := List.pairwise_cons.mp h
    simp only [insertMark]
    split
    · rename_i hlt
      refine List.pairwise_cons.mpr ⟨fun d hd => ?_, h⟩
      rcases List.mem_cons.mp hd with rfl | hd
      · exact hlt
      · exact Nat.lt_trans hlt (hk d hd)
    · split
      · exact h
      · rename_i h₁ h₂
        refine List.pairwise_cons.mpr ⟨fun d hd => ?_, ih hl⟩
        rcases mem_insertMark.mp hd with rfl | hd
        · exact Nat.lt_of_le_of_ne (Nat.le_of_not_lt h₁) (fun e => h₂ e.symm)
        · exact hk d hd

theorem mem_removeMark {l : List Nat} {i j : Nat} : j ∈ removeMark l i ↔ j ∈ l ∧ j ≠ i := by
  simp [removeMark]

theorem pairwise_removeMark {l : List Nat} (i : Nat) (h : l.Pairwise (· < ·)) : (removeMark l i).Pairwise (· < ·) :=
  h.filter _

end Sys2Proof.Machine
end

