-- ==== Sys2Proof/Laws/State.lean ====
section
/-! SUPPORT. One lemma per field of State per named update, true by unfolding the update once, and the read-after-write
laws of the register file; later proofs cite these and unfold no record update. -/

namespace Sys2Proof.Machine

/-! ### writeReg -/

@[simp] theorem writeReg_regs (s : State) (i : RegIdx) (v : Word) : (s.writeReg i v).regs = s.regs.set i.val v i.isLt := rfl
@[simp] theorem writeReg_pc (s : State) (i : RegIdx) (v : Word) : (s.writeReg i v).pc = s.pc := rfl
@[simp] theorem writeReg_mem (s : State) (i : RegIdx) (v : Word) : (s.writeReg i v).mem = s.mem := rfl
@[simp] theorem writeReg_stored (s : State) (i : RegIdx) (v : Word) : (s.writeReg i v).stored = s.stored := rfl
@[simp] theorem writeReg_hex (s : State) (i : RegIdx) (v : Word) : (s.writeReg i v).hex = s.hex := rfl
@[simp] theorem writeReg_ledr (s : State) (i : RegIdx) (v : Word) : (s.writeReg i v).ledr = s.ledr := rfl
@[simp] theorem writeReg_ledg (s : State) (i : RegIdx) (v : Word) : (s.writeReg i v).ledg = s.ledg := rfl
@[simp] theorem writeReg_outputs (s : State) (i : RegIdx) (v : Word) : (s.writeReg i v).outputs = s.outputs := rfl
@[simp] theorem writeReg_keyQueue (s : State) (i : RegIdx) (v : Word) : (s.writeReg i v).keyQueue = s.keyQueue := rfl
@[simp] theorem writeReg_switchQueue (s : State) (i : RegIdx) (v : Word) : (s.writeReg i v).switchQueue = s.switchQueue := rfl
@[simp] theorem writeReg_keyDraws (s : State) (i : RegIdx) (v : Word) : (s.writeReg i v).keyDraws = s.keyDraws := rfl
@[simp] theorem writeReg_switchDraws (s : State) (i : RegIdx) (v : Word) : (s.writeReg i v).switchDraws = s.switchDraws := rfl

/-! ### setPc -/

@[simp] theorem setPc_regs (s : State) (t : Word) : (s.setPc t).regs = s.regs := rfl
@[simp] theorem setPc_pc (s : State) (t : Word) : (s.setPc t).pc = t := rfl
@[simp] theorem setPc_mem (s : State) (t : Word) : (s.setPc t).mem = s.mem := rfl
@[simp] theorem setPc_stored (s : State) (t : Word) : (s.setPc t).stored = s.stored := rfl
@[simp] theorem setPc_hex (s : State) (t : Word) : (s.setPc t).hex = s.hex := rfl
@[simp] theorem setPc_ledr (s : State) (t : Word) : (s.setPc t).ledr = s.ledr := rfl
@[simp] theorem setPc_ledg (s : State) (t : Word) : (s.setPc t).ledg = s.ledg := rfl
@[simp] theorem setPc_outputs (s : State) (t : Word) : (s.setPc t).outputs = s.outputs := rfl
@[simp] theorem setPc_keyQueue (s : State) (t : Word) : (s.setPc t).keyQueue = s.keyQueue := rfl
@[simp] theorem setPc_switchQueue (s : State) (t : Word) : (s.setPc t).switchQueue = s.switchQueue := rfl
@[simp] theorem setPc_keyDraws (s : State) (t : Word) : (s.setPc t).keyDraws = s.keyDraws := rfl
@[simp] theorem setPc_switchDraws (s : State) (t : Word) : (s.setPc t).switchDraws = s.switchDraws := rfl

/-! ### writeHex -/

@[simp] theorem writeHex_regs (s : State) (v : Word) : (writeHex v s).regs = s.regs := rfl
@[simp] theorem writeHex_pc (s : State) (v : Word) : (writeHex v s).pc = s.pc := rfl
@[simp] theorem writeHex_mem (s : State) (v : Word) : (writeHex v s).mem = s.mem := rfl
@[simp] theorem writeHex_stored (s : State) (v : Word) : (writeHex v s).stored = s.stored := rfl
@[simp] theorem writeHex_hex (s : State) (v : Word) : (writeHex v s).hex = v.extractLsb' 0 16 := rfl
@[simp] theorem writeHex_ledr (s : State) (v : Word) : (writeHex v s).ledr = s.ledr := rfl
@[simp] theorem writeHex_ledg (s : State) (v : Word) : (writeHex v s).ledg = s.ledg := rfl
@[simp] theorem writeHex_outputs (s : State) (v : Word) : (writeHex v s).outputs = s.outputs ++ [.hex (v.extractLsb' 0 16)] := rfl
@[simp] theorem writeHex_keyQueue (s : State) (v : Word) : (writeHex v s).keyQueue = s.keyQueue := rfl
@[simp] theorem writeHex_switchQueue (s : State) (v : Word) : (writeHex v s).switchQueue = s.switchQueue := rfl
@[simp] theorem writeHex_keyDraws (s : State) (v : Word) : (writeHex v s).keyDraws = s.keyDraws := rfl
@[simp] theorem writeHex_switchDraws (s : State) (v : Word) : (writeHex v s).switchDraws = s.switchDraws := rfl

/-! ### writeLedr -/

@[simp] theorem writeLedr_regs (s : State) (v : Word) : (writeLedr v s).regs = s.regs := rfl
@[simp] theorem writeLedr_pc (s : State) (v : Word) : (writeLedr v s).pc = s.pc := rfl
@[simp] theorem writeLedr_mem (s : State) (v : Word) : (writeLedr v s).mem = s.mem := rfl
@[simp] theorem writeLedr_stored (s : State) (v : Word) : (writeLedr v s).stored = s.stored := rfl
@[simp] theorem writeLedr_hex (s : State) (v : Word) : (writeLedr v s).hex = s.hex := rfl
@[simp] theorem writeLedr_ledr (s : State) (v : Word) : (writeLedr v s).ledr = v.extractLsb' 0 10 := rfl
@[simp] theorem writeLedr_ledg (s : State) (v : Word) : (writeLedr v s).ledg = s.ledg := rfl
@[simp] theorem writeLedr_outputs (s : State) (v : Word) : (writeLedr v s).outputs = s.outputs ++ [.ledr (v.extractLsb' 0 10)] := rfl
@[simp] theorem writeLedr_keyQueue (s : State) (v : Word) : (writeLedr v s).keyQueue = s.keyQueue := rfl
@[simp] theorem writeLedr_switchQueue (s : State) (v : Word) : (writeLedr v s).switchQueue = s.switchQueue := rfl
@[simp] theorem writeLedr_keyDraws (s : State) (v : Word) : (writeLedr v s).keyDraws = s.keyDraws := rfl
@[simp] theorem writeLedr_switchDraws (s : State) (v : Word) : (writeLedr v s).switchDraws = s.switchDraws := rfl

/-! ### writeLedg -/

@[simp] theorem writeLedg_regs (s : State) (v : Word) : (writeLedg v s).regs = s.regs := rfl
@[simp] theorem writeLedg_pc (s : State) (v : Word) : (writeLedg v s).pc = s.pc := rfl
@[simp] theorem writeLedg_mem (s : State) (v : Word) : (writeLedg v s).mem = s.mem := rfl
@[simp] theorem writeLedg_stored (s : State) (v : Word) : (writeLedg v s).stored = s.stored := rfl
@[simp] theorem writeLedg_hex (s : State) (v : Word) : (writeLedg v s).hex = s.hex := rfl
@[simp] theorem writeLedg_ledr (s : State) (v : Word) : (writeLedg v s).ledr = s.ledr := rfl
@[simp] theorem writeLedg_ledg (s : State) (v : Word) : (writeLedg v s).ledg = v.extractLsb' 0 8 := rfl
@[simp] theorem writeLedg_outputs (s : State) (v : Word) : (writeLedg v s).outputs = s.outputs ++ [.ledg (v.extractLsb' 0 8)] := rfl
@[simp] theorem writeLedg_keyQueue (s : State) (v : Word) : (writeLedg v s).keyQueue = s.keyQueue := rfl
@[simp] theorem writeLedg_switchQueue (s : State) (v : Word) : (writeLedg v s).switchQueue = s.switchQueue := rfl
@[simp] theorem writeLedg_keyDraws (s : State) (v : Word) : (writeLedg v s).keyDraws = s.keyDraws := rfl
@[simp] theorem writeLedg_switchDraws (s : State) (v : Word) : (writeLedg v s).switchDraws = s.switchDraws := rfl

/-! ### writeRam -/

@[simp] theorem writeRam_regs (s : State) (a v : Word) : (writeRam a v s).regs = s.regs := rfl
@[simp] theorem writeRam_pc (s : State) (a v : Word) : (writeRam a v s).pc = s.pc := rfl
@[simp] theorem writeRam_mem (s : State) (a v : Word) : (writeRam a v s).mem = s.mem.writeWord a.toNat v := rfl
@[simp] theorem writeRam_stored (s : State) (a v : Word) : (writeRam a v s).stored = insertMark s.stored (wordIndex a) := rfl
@[simp] theorem writeRam_hex (s : State) (a v : Word) : (writeRam a v s).hex = s.hex := rfl
@[simp] theorem writeRam_ledr (s : State) (a v : Word) : (writeRam a v s).ledr = s.ledr := rfl
@[simp] theorem writeRam_ledg (s : State) (a v : Word) : (writeRam a v s).ledg = s.ledg := rfl
@[simp] theorem writeRam_outputs (s : State) (a v : Word) : (writeRam a v s).outputs = s.outputs := rfl
@[simp] theorem writeRam_keyQueue (s : State) (a v : Word) : (writeRam a v s).keyQueue = s.keyQueue := rfl
@[simp] theorem writeRam_switchQueue (s : State) (a v : Word) : (writeRam a v s).switchQueue = s.switchQueue := rfl
@[simp] theorem writeRam_keyDraws (s : State) (a v : Word) : (writeRam a v s).keyDraws = s.keyDraws := rfl
@[simp] theorem writeRam_switchDraws (s : State) (a v : Word) : (writeRam a v s).switchDraws = s.switchDraws := rfl

/-! ### loadWordAt -/

@[simp] theorem loadWordAt_regs (s : State) (a v : Word) : (loadWordAt a v s).regs = s.regs := rfl
@[simp] theorem loadWordAt_pc (s : State) (a v : Word) : (loadWordAt a v s).pc = s.pc := rfl
@[simp] theorem loadWordAt_mem (s : State) (a v : Word) : (loadWordAt a v s).mem = s.mem.writeWord a.toNat v := rfl
@[simp] theorem loadWordAt_stored (s : State) (a v : Word) : (loadWordAt a v s).stored = removeMark s.stored (wordIndex a) := rfl
@[simp] theorem loadWordAt_hex (s : State) (a v : Word) : (loadWordAt a v s).hex = s.hex := rfl
@[simp] theorem loadWordAt_ledr (s : State) (a v : Word) : (loadWordAt a v s).ledr = s.ledr := rfl
@[simp] theorem loadWordAt_ledg (s : State) (a v : Word) : (loadWordAt a v s).ledg = s.ledg := rfl
@[simp] theorem loadWordAt_outputs (s : State) (a v : Word) : (loadWordAt a v s).outputs = s.outputs := rfl
@[simp] theorem loadWordAt_keyQueue (s : State) (a v : Word) : (loadWordAt a v s).keyQueue = s.keyQueue := rfl
@[simp] theorem loadWordAt_switchQueue (s : State) (a v : Word) : (loadWordAt a v s).switchQueue = s.switchQueue := rfl
@[simp] theorem loadWordAt_keyDraws (s : State) (a v : Word) : (loadWordAt a v s).keyDraws = s.keyDraws := rfl
@[simp] theorem loadWordAt_switchDraws (s : State) (a v : Word) : (loadWordAt a v s).switchDraws = s.switchDraws := rfl

/-! ### setKeyInputs -/

@[simp] theorem setKeyInputs_regs (s : State) (vs : List (BitVec 4)) : (setKeyInputs vs s).regs = s.regs := rfl
@[simp] theorem setKeyInputs_pc (s : State) (vs : List (BitVec 4)) : (setKeyInputs vs s).pc = s.pc := rfl
@[simp] theorem setKeyInputs_mem (s : State) (vs : List (BitVec 4)) : (setKeyInputs vs s).mem = s.mem := rfl
@[simp] theorem setKeyInputs_stored (s : State) (vs : List (BitVec 4)) : (setKeyInputs vs s).stored = s.stored := rfl
@[simp] theorem setKeyInputs_hex (s : State) (vs : List (BitVec 4)) : (setKeyInputs vs s).hex = s.hex := rfl
@[simp] theorem setKeyInputs_ledr (s : State) (vs : List (BitVec 4)) : (setKeyInputs vs s).ledr = s.ledr := rfl
@[simp] theorem setKeyInputs_ledg (s : State) (vs : List (BitVec 4)) : (setKeyInputs vs s).ledg = s.ledg := rfl
@[simp] theorem setKeyInputs_outputs (s : State) (vs : List (BitVec 4)) : (setKeyInputs vs s).outputs = s.outputs := rfl
@[simp] theorem setKeyInputs_keyQueue (s : State) (vs : List (BitVec 4)) : (setKeyInputs vs s).keyQueue = vs := rfl
@[simp] theorem setKeyInputs_switchQueue (s : State) (vs : List (BitVec 4)) : (setKeyInputs vs s).switchQueue = s.switchQueue := rfl
@[simp] theorem setKeyInputs_keyDraws (s : State) (vs : List (BitVec 4)) : (setKeyInputs vs s).keyDraws = s.keyDraws := rfl
@[simp] theorem setKeyInputs_switchDraws (s : State) (vs : List (BitVec 4)) : (setKeyInputs vs s).switchDraws = s.switchDraws := rfl

/-! ### setSwitchInputs -/

@[simp] theorem setSwitchInputs_regs (s : State) (vs : List (BitVec 10)) : (setSwitchInputs vs s).regs = s.regs := rfl
@[simp] theorem setSwitchInputs_pc (s : State) (vs : List (BitVec 10)) : (setSwitchInputs vs s).pc = s.pc := rfl
@[simp] theorem setSwitchInputs_mem (s : State) (vs : List (BitVec 10)) : (setSwitchInputs vs s).mem = s.mem := rfl
@[simp] theorem setSwitchInputs_stored (s : State) (vs : List (BitVec 10)) : (setSwitchInputs vs s).stored = s.stored := rfl
@[simp] theorem setSwitchInputs_hex (s : State) (vs : List (BitVec 10)) : (setSwitchInputs vs s).hex = s.hex := rfl
@[simp] theorem setSwitchInputs_ledr (s : State) (vs : List (BitVec 10)) : (setSwitchInputs vs s).ledr = s.ledr := rfl
@[simp] theorem setSwitchInputs_ledg (s : State) (vs : List (BitVec 10)) : (setSwitchInputs vs s).ledg = s.ledg := rfl
@[simp] theorem setSwitchInputs_outputs (s : State) (vs : List (BitVec 10)) : (setSwitchInputs vs s).outputs = s.outputs := rfl
@[simp] theorem setSwitchInputs_keyQueue (s : State) (vs : List (BitVec 10)) : (setSwitchInputs vs s).keyQueue = s.keyQueue := rfl
@[simp] theorem setSwitchInputs_switchQueue (s : State) (vs : List (BitVec 10)) : (setSwitchInputs vs s).switchQueue = vs := rfl
@[simp] theorem setSwitchInputs_keyDraws (s : State) (vs : List (BitVec 10)) : (setSwitchInputs vs s).keyDraws = s.keyDraws := rfl
@[simp] theorem setSwitchInputs_switchDraws (s : State) (vs : List (BitVec 10)) : (setSwitchInputs vs s).switchDraws = s.switchDraws := rfl

/-! ### drawKey: only the input it samples moves on -/

@[simp] theorem drawKey_regs (s : State) : (drawKey s).2.regs = s.regs := by
  unfold drawKey; split <;> rfl
@[simp] theorem drawKey_pc (s : State) : (drawKey s).2.pc = s.pc := by
  unfold drawKey; split <;> rfl
@[simp] theorem drawKey_mem (s : State) : (drawKey s).2.mem = s.mem := by
  unfold drawKey; split <;> rfl
@[simp] theorem drawKey_stored (s : State) : (drawKey s).2.stored = s.stored := by
  unfold drawKey; split <;> rfl
@[simp] theorem drawKey_hex (s : State) : (drawKey s).2.hex = s.hex := by
  unfold drawKey; split <;> rfl
@[simp] theorem drawKey_ledr (s : State) : (drawKey s).2.ledr = s.ledr := by
  unfold drawKey; split <;> rfl
@[simp] theorem drawKey_ledg (s : State) : (drawKey s).2.ledg = s.ledg := by
  unfold drawKey; split <;> rfl
@[simp] theorem drawKey_outputs (s : State) : (drawKey s).2.outputs = s.outputs := by
  unfold drawKey; split <;> rfl
@[simp] theorem drawKey_switchQueue (s : State) : (drawKey s).2.switchQueue = s.switchQueue := by
  unfold drawKey; split <;> rfl
@[simp] theorem drawKey_switchDraws (s : State) : (drawKey s).2.switchDraws = s.switchDraws := by
  unfold drawKey; split <;> rfl

/-! ### drawSwitch: only the input it samples moves on -/

@[simp] theorem drawSwitch_regs (s : State) : (drawSwitch s).2.regs = s.regs := by
  unfold drawSwitch; split <;> rfl
@[simp] theorem drawSwitch_pc (s : State) : (drawSwitch s).2.pc = s.pc := by
  unfold drawSwitch; split <;> rfl
@[simp] theorem drawSwitch_mem (s : State) : (drawSwitch s).2.mem = s.mem := by
  unfold drawSwitch; split <;> rfl
@[simp] theorem drawSwitch_stored (s : State) : (drawSwitch s).2.stored = s.stored := by
  unfold drawSwitch; split <;> rfl
@[simp] theorem drawSwitch_hex (s : State) : (drawSwitch s).2.hex = s.hex := by
  unfold drawSwitch; split <;> rfl
@[simp] theorem drawSwitch_ledr (s : State) : (drawSwitch s).2.ledr = s.ledr := by
  unfold drawSwitch; split <;> rfl
@[simp] theorem drawSwitch_ledg (s : State) : (drawSwitch s).2.ledg = s.ledg := by
  unfold drawSwitch; split <;> rfl
@[simp] theorem drawSwitch_outputs (s : State) : (drawSwitch s).2.outputs = s.outputs := by
  unfold drawSwitch; split <;> rfl
@[simp] theorem drawSwitch_keyQueue (s : State) : (drawSwitch s).2.keyQueue = s.keyQueue := by
  unfold drawSwitch; split <;> rfl
@[simp] theorem drawSwitch_keyDraws (s : State) : (drawSwitch s).2.keyDraws = s.keyDraws := by
  unfold drawSwitch; split <;> rfl

/-! ### The register file -/

@[simp] theorem readReg_writeReg_same (s : State) (i : RegIdx) (v : Word) : (s.writeReg i v).readReg i = v := by
  simp [State.readReg, State.writeReg, Vector.get_eq_getElem]

theorem readReg_writeReg_other (s : State) (i j : RegIdx) (v : Word) (h : j ≠ i) :
    (s.writeReg i v).readReg j = s.readReg j := by
  have hv : i.val ≠ j.val := fun e => h (Fin.ext e.symm)
  simp [State.readReg, State.writeReg, Vector.get_eq_getElem, hv]

/-- The register file after a write, for any register: the written one holds the new value, every other its old one. -/
theorem readReg_writeReg (s : State) (i j : RegIdx) (v : Word) :
    (s.writeReg i v).readReg j = if j = i then v else s.readReg j := by
  by_cases h : j = i
  · subst h; simp
  · simp [readReg_writeReg_other s i j v h, h]

/-- Reading a register looks at the register file only. -/
theorem readReg_congr {s t : State} (h : t.regs = s.regs) (i : RegIdx) : t.readReg i = s.readReg i := by
  simp [State.readReg, h]

@[simp] theorem readReg_setPc (s : State) (t : Word) (i : RegIdx) : (s.setPc t).readReg i = s.readReg i := rfl
@[simp] theorem readReg_writeHex (s : State) (v : Word) (i : RegIdx) : (writeHex v s).readReg i = s.readReg i := rfl
@[simp] theorem readReg_writeLedr (s : State) (v : Word) (i : RegIdx) : (writeLedr v s).readReg i = s.readReg i := rfl
@[simp] theorem readReg_writeLedg (s : State) (v : Word) (i : RegIdx) : (writeLedg v s).readReg i = s.readReg i := rfl
@[simp] theorem readReg_writeRam (s : State) (a v : Word) (i : RegIdx) : (writeRam a v s).readReg i = s.readReg i := rfl
@[simp] theorem readReg_loadWordAt (s : State) (a v : Word) (i : RegIdx) : (loadWordAt a v s).readReg i = s.readReg i := rfl
@[simp] theorem readReg_drawKey (s : State) (i : RegIdx) : (drawKey s).2.readReg i = s.readReg i :=
  readReg_congr (drawKey_regs s) i
@[simp] theorem readReg_drawSwitch (s : State) (i : RegIdx) : (drawSwitch s).2.readReg i = s.readReg i :=
  readReg_congr (drawSwitch_regs s) i

@[simp] theorem nextPc_def (s : State) : s.nextPc = s.pc + 4#32 := rfl

/-! ### The state after reset -/

@[simp] theorem boot_regs (b : Boot) : (State.boot b).regs = b.regInit := rfl
@[simp] theorem boot_pc (b : Boot) : (State.boot b).pc = Config.resetPc := rfl
@[simp] theorem boot_mem (b : Boot) : (State.boot b).mem = b.image := rfl
@[simp] theorem boot_stored (b : Boot) : (State.boot b).stored = [] := rfl
@[simp] theorem boot_outputs (b : Boot) : (State.boot b).outputs = [] := rfl

end Sys2Proof.Machine
end

