-- ==== Sys2Proof/Laws/Ops.lean ====
section
/-! SUPPORT. What each shared operation can do, said once: the map, the three accesses, and the shapes of a next state of
exec. Later proofs cite these and unfold no operation. -/

namespace Sys2Proof.Machine

/-! ### Addresses -/

theorem misaligned_iff (a : Word) : misaligned a = true ↔ a.toNat % 4 ≠ 0 := by
  have e : (a.extractLsb' 0 2).toNat = a.toNat % 4 := by rw [BitVec.extractLsb'_toNat]; simp
  unfold misaligned
  rw [bne_iff_ne, ne_eq, ← BitVec.toNat_inj, e]
  simp

theorem aligned_iff (a : Word) : misaligned a = false ↔ a.toNat % 4 = 0 := by
  rw [← Bool.not_eq_true, misaligned_iff]; omega

/-- An aligned RAM address is four times its word index (20_memory.md R42). -/
theorem four_mul_wordIndex {a : Word} (h : misaligned a = false) : 4 * wordIndex a = a.toNat := by
  have := (aligned_iff a).mp h
  unfold wordIndex; omega

theorem wordIndex_lt {a : Word} (h : a.toNat < Config.ramBytes) : wordIndex a < Config.ramWords := by
  unfold wordIndex; unfold Config.ramBytes at h; unfold Config.ramWords; omega

theorem regionOf_ram_iff (a : Word) : regionOf a = .ram ↔ a.toNat < Config.ramBytes := by
  unfold regionOf
  repeat' split
  all_goals simp_all

theorem regionOf_hex_iff (a : Word) : regionOf a = .hex ↔ a = 0xF0000000#32 := by
  constructor
  · unfold regionOf; intro h; (repeat' split at h) <;> simp_all
  · rintro rfl; decide

theorem regionOf_ledr_iff (a : Word) : regionOf a = .ledr ↔ a = 0xF0000004#32 := by
  constructor
  · unfold regionOf; intro h; (repeat' split at h) <;> simp_all
  · rintro rfl; decide

theorem regionOf_ledg_iff (a : Word) : regionOf a = .ledg ↔ a = 0xF0000008#32 := by
  constructor
  · unfold regionOf; intro h; (repeat' split at h) <;> simp_all
  · rintro rfl; decide

theorem regionOf_key_iff (a : Word) : regionOf a = .key ↔ a = 0xF0000010#32 := by
  constructor
  · unfold regionOf; intro h; (repeat' split at h) <;> simp_all
  · rintro rfl; decide

theorem regionOf_switch_iff (a : Word) : regionOf a = .switch ↔ a = 0xF0000014#32 := by
  constructor
  · unfold regionOf; intro h; (repeat' split at h) <;> simp_all
  · rintro rfl; decide

/-! ### The three accesses -/

/-- A load that answers: an aligned RAM word that holds a value, or a sample of one of the two inputs. -/
theorem memRead_ok {a : Word} {s s' : State} {v : Word} (h : memRead a s = .ok (v, s')) :
    misaligned a = false ∧
      ((regionOf a = .ram ∧ s.mem.readWord a.toNat = some v ∧ s' = s) ∨
        (regionOf a = .key ∧ v = (drawKey s).1.setWidth 32 ∧ s' = (drawKey s).2) ∨
        (regionOf a = .switch ∧ v = (drawSwitch s).1.setWidth 32 ∧ s' = (drawSwitch s).2)) := by
  unfold memRead at h
  split at h
  · simp at h
  · rename_i hm
    refine ⟨by simpa using hm, ?_⟩
    split at h
    · rename_i hr
      split at h
      · rename_i w hw
        simp only [Except.ok.injEq, Prod.mk.injEq] at h
        exact .inl ⟨hr, h.1 ▸ hw, h.2.symm⟩
      · simp at h
    · rename_i hr
      simp only [Except.ok.injEq, Prod.mk.injEq] at h
      exact .inr (.inl ⟨hr, h.1.symm, h.2.symm⟩)
    · rename_i hr
      simp only [Except.ok.injEq, Prod.mk.injEq] at h
      exact .inr (.inr ⟨hr, h.1.symm, h.2.symm⟩)
    all_goals simp at h

/-- A store that answers: an aligned RAM word, or one of the three output registers. -/
theorem memWrite_ok {a v : Word} {s s' : State} (h : memWrite a v s = .ok s') :
    misaligned a = false ∧
      ((regionOf a = .ram ∧ s' = writeRam a v s) ∨ (regionOf a = .hex ∧ s' = writeHex v s) ∨
        (regionOf a = .ledr ∧ s' = writeLedr v s) ∨ (regionOf a = .ledg ∧ s' = writeLedg v s)) := by
  unfold memWrite at h
  split at h
  · simp at h
  · rename_i hm
    refine ⟨by simpa using hm, ?_⟩
    split at h
    · rename_i hr
      exact .inl ⟨hr, (Except.ok.inj h).symm⟩
    · rename_i hr
      exact .inr (.inl ⟨hr, (Except.ok.inj h).symm⟩)
    · rename_i hr
      exact .inr (.inr (.inl ⟨hr, (Except.ok.inj h).symm⟩))
    · rename_i hr
      exact .inr (.inr (.inr ⟨hr, (Except.ok.inj h).symm⟩))
    all_goals simp at h

/-! ### Every case of the three accesses, from its condition -/

section
variable {a v : Word} {s : State}

theorem memRead_misaligned (h : a.toNat % 4 ≠ 0) : memRead a s = .error (.misalignedAccess a) := by
  simp [memRead, (misaligned_iff _).mpr h]

theorem memRead_ram (h : a.toNat % 4 = 0) (hr : a.toNat < Config.ramBytes) (hv : s.mem.readWord a.toNat = some v) :
    memRead a s = .ok (v, s) := by
  simp [memRead, (aligned_iff _).mpr h, (regionOf_ram_iff a).mpr hr, hv]

theorem memRead_undefined (h : a.toNat % 4 = 0) (hr : a.toNat < Config.ramBytes) (hv : s.mem.readWord a.toNat = none) :
    memRead a s = .error (.undefinedRead a) := by
  simp [memRead, (aligned_iff _).mpr h, (regionOf_ram_iff a).mpr hr, hv]

theorem memRead_key (h : a = 0xF0000010#32) :
    memRead a s = .ok ((drawKey s).1.setWidth 32, (drawKey s).2) := by
  subst h
  simp [memRead, show misaligned 0xF0000010#32 = false by decide, show regionOf 0xF0000010#32 = .key by decide]

theorem memRead_switch (h : a = 0xF0000014#32) :
    memRead a s = .ok ((drawSwitch s).1.setWidth 32, (drawSwitch s).2) := by
  subst h
  simp [memRead, show misaligned 0xF0000014#32 = false by decide, show regionOf 0xF0000014#32 = .switch by decide]

theorem memRead_unmapped (h : a.toNat % 4 = 0) (hr : Config.ramBytes ≤ a.toNat) (hk : a ≠ 0xF0000010#32)
    (hs : a ≠ 0xF0000014#32) : memRead a s = .error (.unmappedAccess a .load) := by
  have e : regionOf a ≠ .ram := by rw [Ne, regionOf_ram_iff]; exact Nat.not_lt.mpr hr
  have e₁ : regionOf a ≠ .key := by rw [Ne, regionOf_key_iff]; exact hk
  have e₂ : regionOf a ≠ .switch := by rw [Ne, regionOf_switch_iff]; exact hs
  simp only [memRead, (aligned_iff _).mpr h]
  cases hc : regionOf a <;> simp_all

theorem memWrite_misaligned (h : a.toNat % 4 ≠ 0) : memWrite a v s = .error (.misalignedAccess a) := by
  simp [memWrite, (misaligned_iff _).mpr h]

theorem memWrite_ram (h : a.toNat % 4 = 0) (hr : a.toNat < Config.ramBytes) :
    memWrite a v s = .ok (writeRam a v s) := by
  simp [memWrite, (aligned_iff _).mpr h, (regionOf_ram_iff a).mpr hr]

theorem memWrite_hex (h : a = 0xF0000000#32) : memWrite a v s = .ok (writeHex v s) := by
  subst h
  simp [memWrite, show misaligned 0xF0000000#32 = false by decide, show regionOf 0xF0000000#32 = .hex by decide]

theorem memWrite_ledr (h : a = 0xF0000004#32) : memWrite a v s = .ok (writeLedr v s) := by
  subst h
  simp [memWrite, show misaligned 0xF0000004#32 = false by decide, show regionOf 0xF0000004#32 = .ledr by decide]

theorem memWrite_ledg (h : a = 0xF0000008#32) : memWrite a v s = .ok (writeLedg v s) := by
  subst h
  simp [memWrite, show misaligned 0xF0000008#32 = false by decide, show regionOf 0xF0000008#32 = .ledg by decide]

theorem memWrite_unmapped (h : a.toNat % 4 = 0) (hr : Config.ramBytes ≤ a.toNat) (h₁ : a ≠ 0xF0000000#32)
    (h₂ : a ≠ 0xF0000004#32) (h₃ : a ≠ 0xF0000008#32) : memWrite a v s = .error (.unmappedAccess a .store) := by
  have e : regionOf a ≠ .ram := by rw [Ne, regionOf_ram_iff]; exact Nat.not_lt.mpr hr
  have e₁ : regionOf a ≠ .hex := by rw [Ne, regionOf_hex_iff]; exact h₁
  have e₂ : regionOf a ≠ .ledr := by rw [Ne, regionOf_ledr_iff]; exact h₂
  have e₃ : regionOf a ≠ .ledg := by rw [Ne, regionOf_ledg_iff]; exact h₃
  simp only [memWrite, (aligned_iff _).mpr h]
  cases hc : regionOf a <;> simp_all

end

/-- A fetch that answers: all four checks passed (20_memory.md R45). -/
theorem fetch_ok_iff {s : State} {iw : Word} :
    fetch s = .ok iw ↔ misaligned s.pc = false ∧ s.pc.toNat < Config.ramBytes ∧
      s.mem.readWord s.pc.toNat = some iw ∧ wordIndex s.pc ∉ s.stored := by
  unfold fetch
  split
  · rename_i h; simp [h]
  · rename_i h
    split
    · rename_i h₁
      simp [Nat.not_lt.mpr h₁]
    · rename_i h₁
      split
      · rename_i h₂; simp [h₂]
      · rename_i w h₂
        have ha : misaligned s.pc = false := by simpa using h
        have hb : s.pc.toNat < Config.ramBytes := Nat.lt_of_not_le h₁
        split
        · rename_i h₃; simp [h₃]
        · rename_i h₃; simp [ha, hb, h₂, h₃]

/-- What `fetch` reads of a state: `pc`, memory and the marks. -/
theorem fetch_congr {s t : State} (hp : t.pc = s.pc) (hm : t.mem = s.mem) (hs : t.stored = s.stored) :
    fetch t = fetch s := by
  unfold fetch; rw [hp, hm, hs]

/-! ### Shapes of a next state -/

/-- `retire` always answers. -/
theorem retire_eq (rd : RegIdx) (v : Word) (s : State) :
    retire rd v s = .next ((s.writeReg rd v).setPc (s.pc + 4#32)) := rfl

/-- A load that answers ends by writing `rd`; only an input has moved on besides. -/
theorem execLw_next {rd rs1 : RegIdx} {imm : Imm} {s t : State} (h : execLw rd rs1 imm s = .next t) :
    ∃ v s', memRead (effectiveAddress rs1 imm s) s = .ok (v, s') ∧ t = (s'.writeReg rd v).setPc s'.nextPc := by
  unfold execLw at h
  split at h
  · rename_i v s' hr
    simp only [retire, Host.Outcome.next.injEq] at h
    exact ⟨v, s', hr, h.symm⟩
  · simp [raise] at h

/-- A store that answers ends at the next instruction. -/
theorem execSw_next {rs1 rs2 : RegIdx} {imm : Imm} {s t : State} (h : execSw rs1 rs2 imm s = .next t) :
    ∃ s', memWrite (effectiveAddress rs1 imm s) (s.readReg rs2) s = .ok s' ∧ t = s'.setPc s.nextPc := by
  unfold execSw at h
  split at h
  · rename_i s' hr
    simp only [Host.Outcome.next.injEq] at h
    exact ⟨s', hr, h.symm⟩
  · simp [raise] at h

/-- What one instruction can do when it answers a next state: write one register and `pc` (ALU, compares, `JAL`), write
`pc` (branches), load, or store. -/
inductive NextShape (s t : State) : Prop where
  | register (rd : RegIdx) (v p : Word) (e : t = (s.writeReg rd v).setPc p)
  | branch (p : Word) (e : t = s.setPc p)
  | load (a v : Word) (rd : RegIdx) (s' : State) (r : memRead a s = .ok (v, s'))
      (e : t = (s'.writeReg rd v).setPc s'.nextPc)
  | store (a v : Word) (s' : State) (w : memWrite a v s = .ok s') (e : t = s'.setPc s.nextPc)

/-- Every instruction that answers a next state has one of the four shapes. -/
theorem exec_next_shape {i : Instr} {s t : State} (h : exec i s = .next t) : NextShape s t := by
  cases i
  case lw rd rs1 imm =>
    obtain ⟨v, s', r, e⟩ := execLw_next h
    exact .load _ v rd s' r e
  case sw rs1 rs2 imm =>
    obtain ⟨s', w, e⟩ := execSw_next h
    exact .store _ _ s' w e
  case jal rd rs1 imm => exact .register rd _ _ (Host.Outcome.next.inj h).symm
  case mvhi rd imm => exact .register rd _ _ (Host.Outcome.next.inj h).symm
  case bf | beq | blt | blte | bt | bne | bgte | bgt | beqz | bltz | bltez | bnez | bgtez | bgtz =>
    exact .branch _ (Host.Outcome.next.inj h).symm
  all_goals exact .register _ _ _ (Host.Outcome.next.inj h).symm

/-- A step that answers fetched a word, decoded it and ran the instruction. -/
theorem step_next {s t : State} (h : step s = .next t) :
    ∃ iw i, fetch s = .ok iw ∧ decodeWord iw = .ok i ∧ exec i s = .next t := by
  unfold step at h
  split at h
  · simp [raise] at h
  · rename_i iw hf
    split at h
    · simp [raise] at h
    · rename_i i hd
      exact ⟨iw, i, hf, hd, h⟩

/-- One more step of a run, said with the model's own `step`. -/
theorem core_run_succ (k : Nat) (s : State) :
    Sys2Proof.core.run (k + 1) s =
      match step s with
      | .next t => Sys2Proof.core.run k t
      | .fault f => .fault f
      | .refused r => .refused r := by
  cases h : step s with
  | next t => have h' : Sys2Proof.core.step s = .next t := h; simp [Host.Core.run, h']
  | fault f => have h' : Sys2Proof.core.step s = .fault f := h; simp [Host.Core.run, h']
  | refused r => have h' : Sys2Proof.core.step s = .refused r := h; simp [Host.Core.run, h']

end Sys2Proof.Machine
end

