-- ==== Sys2Proof/Laws/PerInstr.lean ====
section
/-! SUPPORT. The per-instruction family EncodeInTable: the word of every instruction is admitted by a row of the opcode
table that carries the instruction's mnemonic (30_encoding.md R80). -/

/-- The word of the instruction stands in its own row of the table, so it is well formed. -/
def Sys2Proof.Laws.EncodeInTable.Statement (i : Sys2Proof.Instr) : Prop :=
  ∃ r ∈ Sys2Proof.opcodeRows, r.mnemonic = i.mnemonic ∧ r.admits (Sys2Proof.encode i) = true

theorem Sys2Proof.Laws.EncodeInTable.add (rd rs1 rs2 : Sys2Proof.RegIdx) :
    Sys2Proof.Laws.EncodeInTable.Statement (.add rd rs1 rs2) :=
  ⟨⟨"ADD", 0x00000000#32, 0x000FFFFF#32⟩, by decide, rfl, by simp [Sys2Proof.OpcodeRow.admits, Sys2Proof.encode, Sys2Proof.packR_masked]⟩

theorem Sys2Proof.Laws.EncodeInTable.sub (rd rs1 rs2 : Sys2Proof.RegIdx) :
    Sys2Proof.Laws.EncodeInTable.Statement (.sub rd rs1 rs2) :=
  ⟨⟨"SUB", 0x00000010#32, 0x000FFFFF#32⟩, by decide, rfl, by simp [Sys2Proof.OpcodeRow.admits, Sys2Proof.encode, Sys2Proof.packR_masked]⟩

theorem Sys2Proof.Laws.EncodeInTable.and (rd rs1 rs2 : Sys2Proof.RegIdx) :
    Sys2Proof.Laws.EncodeInTable.Statement (.and rd rs1 rs2) :=
  ⟨⟨"AND", 0x00000040#32, 0x000FFFFF#32⟩, by decide, rfl, by simp [Sys2Proof.OpcodeRow.admits, Sys2Proof.encode, Sys2Proof.packR_masked]⟩

theorem Sys2Proof.Laws.EncodeInTable.or (rd rs1 rs2 : Sys2Proof.RegIdx) :
    Sys2Proof.Laws.EncodeInTable.Statement (.or rd rs1 rs2) :=
  ⟨⟨"OR", 0x00000050#32, 0x000FFFFF#32⟩, by decide, rfl, by simp [Sys2Proof.OpcodeRow.admits, Sys2Proof.encode, Sys2Proof.packR_masked]⟩

theorem Sys2Proof.Laws.EncodeInTable.xor (rd rs1 rs2 : Sys2Proof.RegIdx) :
    Sys2Proof.Laws.EncodeInTable.Statement (.xor rd rs1 rs2) :=
  ⟨⟨"XOR", 0x00000060#32, 0x000FFFFF#32⟩, by decide, rfl, by simp [Sys2Proof.OpcodeRow.admits, Sys2Proof.encode, Sys2Proof.packR_masked]⟩

theorem Sys2Proof.Laws.EncodeInTable.nand (rd rs1 rs2 : Sys2Proof.RegIdx) :
    Sys2Proof.Laws.EncodeInTable.Statement (.nand rd rs1 rs2) :=
  ⟨⟨"NAND", 0x000000C0#32, 0x000FFFFF#32⟩, by decide, rfl, by simp [Sys2Proof.OpcodeRow.admits, Sys2Proof.encode, Sys2Proof.packR_masked]⟩

theorem Sys2Proof.Laws.EncodeInTable.nor (rd rs1 rs2 : Sys2Proof.RegIdx) :
    Sys2Proof.Laws.EncodeInTable.Statement (.nor rd rs1 rs2) :=
  ⟨⟨"NOR", 0x000000D0#32, 0x000FFFFF#32⟩, by decide, rfl, by simp [Sys2Proof.OpcodeRow.admits, Sys2Proof.encode, Sys2Proof.packR_masked]⟩

theorem Sys2Proof.Laws.EncodeInTable.xnor (rd rs1 rs2 : Sys2Proof.RegIdx) :
    Sys2Proof.Laws.EncodeInTable.Statement (.xnor rd rs1 rs2) :=
  ⟨⟨"XNOR", 0x000000E0#32, 0x000FFFFF#32⟩, by decide, rfl, by simp [Sys2Proof.OpcodeRow.admits, Sys2Proof.encode, Sys2Proof.packR_masked]⟩

theorem Sys2Proof.Laws.EncodeInTable.addi (rd rs1 : Sys2Proof.RegIdx) (imm : Sys2Proof.Imm) :
    Sys2Proof.Laws.EncodeInTable.Statement (.addi rd rs1 imm) :=
  ⟨⟨"ADDI", 0x00000008#32, 0x000000FF#32⟩, by decide, rfl, by simp [Sys2Proof.OpcodeRow.admits, Sys2Proof.encode, Sys2Proof.packI_masked]⟩

theorem Sys2Proof.Laws.EncodeInTable.subi (rd rs1 : Sys2Proof.RegIdx) (imm : Sys2Proof.Imm) :
    Sys2Proof.Laws.EncodeInTable.Statement (.subi rd rs1 imm) :=
  ⟨⟨"SUBI", 0x00000018#32, 0x000000FF#32⟩, by decide, rfl, by simp [Sys2Proof.OpcodeRow.admits, Sys2Proof.encode, Sys2Proof.packI_masked]⟩

theorem Sys2Proof.Laws.EncodeInTable.andi (rd rs1 : Sys2Proof.RegIdx) (imm : Sys2Proof.Imm) :
    Sys2Proof.Laws.EncodeInTable.Statement (.andi rd rs1 imm) :=
  ⟨⟨"ANDI", 0x00000048#32, 0x000000FF#32⟩, by decide, rfl, by simp [Sys2Proof.OpcodeRow.admits, Sys2Proof.encode, Sys2Proof.packI_masked]⟩

theorem Sys2Proof.Laws.EncodeInTable.ori (rd rs1 : Sys2Proof.RegIdx) (imm : Sys2Proof.Imm) :
    Sys2Proof.Laws.EncodeInTable.Statement (.ori rd rs1 imm) :=
  ⟨⟨"ORI", 0x00000058#32, 0x000000FF#32⟩, by decide, rfl, by simp [Sys2Proof.OpcodeRow.admits, Sys2Proof.encode, Sys2Proof.packI_masked]⟩

theorem Sys2Proof.Laws.EncodeInTable.xori (rd rs1 : Sys2Proof.RegIdx) (imm : Sys2Proof.Imm) :
    Sys2Proof.Laws.EncodeInTable.Statement (.xori rd rs1 imm) :=
  ⟨⟨"XORI", 0x00000068#32, 0x000000FF#32⟩, by decide, rfl, by simp [Sys2Proof.OpcodeRow.admits, Sys2Proof.encode, Sys2Proof.packI_masked]⟩

theorem Sys2Proof.Laws.EncodeInTable.nandi (rd rs1 : Sys2Proof.RegIdx) (imm : Sys2Proof.Imm) :
    Sys2Proof.Laws.EncodeInTable.Statement (.nandi rd rs1 imm) :=
  ⟨⟨"NANDI", 0x000000C8#32, 0x000000FF#32⟩, by decide, rfl, by simp [Sys2Proof.OpcodeRow.admits, Sys2Proof.encode, Sys2Proof.packI_masked]⟩

theorem Sys2Proof.Laws.EncodeInTable.nori (rd rs1 : Sys2Proof.RegIdx) (imm : Sys2Proof.Imm) :
    Sys2Proof.Laws.EncodeInTable.Statement (.nori rd rs1 imm) :=
  ⟨⟨"NORI", 0x000000D8#32, 0x000000FF#32⟩, by decide, rfl, by simp [Sys2Proof.OpcodeRow.admits, Sys2Proof.encode, Sys2Proof.packI_masked]⟩

theorem Sys2Proof.Laws.EncodeInTable.xnori (rd rs1 : Sys2Proof.RegIdx) (imm : Sys2Proof.Imm) :
    Sys2Proof.Laws.EncodeInTable.Statement (.xnori rd rs1 imm) :=
  ⟨⟨"XNORI", 0x000000E8#32, 0x000000FF#32⟩, by decide, rfl, by simp [Sys2Proof.OpcodeRow.admits, Sys2Proof.encode, Sys2Proof.packI_masked]⟩

theorem Sys2Proof.Laws.EncodeInTable.mvhi (rd : Sys2Proof.RegIdx) (imm : Sys2Proof.Imm) :
    Sys2Proof.Laws.EncodeInTable.Statement (.mvhi rd imm) :=
  ⟨⟨"MVHI", 0x000000B8#32, 0x0F0000FF#32⟩, by decide, rfl, by simp [Sys2Proof.OpcodeRow.admits, Sys2Proof.encode, Sys2Proof.packU_masked]⟩

theorem Sys2Proof.Laws.EncodeInTable.lw (rd rs1 : Sys2Proof.RegIdx) (imm : Sys2Proof.Imm) :
    Sys2Proof.Laws.EncodeInTable.Statement (.lw rd rs1 imm) :=
  ⟨⟨"LW", 0x00000009#32, 0x000000FF#32⟩, by decide, rfl, by simp [Sys2Proof.OpcodeRow.admits, Sys2Proof.encode, Sys2Proof.packI_masked]⟩

theorem Sys2Proof.Laws.EncodeInTable.sw (rs1 rs2 : Sys2Proof.RegIdx) (imm : Sys2Proof.Imm) :
    Sys2Proof.Laws.EncodeInTable.Statement (.sw rs1 rs2 imm) :=
  ⟨⟨"SW", 0x00000005#32, 0x000000FF#32⟩, by decide, rfl, by simp [Sys2Proof.OpcodeRow.admits, Sys2Proof.encode, Sys2Proof.packI_masked]⟩

theorem Sys2Proof.Laws.EncodeInTable.f (rd rs1 rs2 : Sys2Proof.RegIdx) :
    Sys2Proof.Laws.EncodeInTable.Statement (.f rd rs1 rs2) :=
  ⟨⟨"F", 0x00000002#32, 0x000FFFFF#32⟩, by decide, rfl, by simp [Sys2Proof.OpcodeRow.admits, Sys2Proof.encode, Sys2Proof.packR_masked]⟩

theorem Sys2Proof.Laws.EncodeInTable.eq (rd rs1 rs2 : Sys2Proof.RegIdx) :
    Sys2Proof.Laws.EncodeInTable.Statement (.eq rd rs1 rs2) :=
  ⟨⟨"EQ", 0x00000012#32, 0x000FFFFF#32⟩, by decide, rfl, by simp [Sys2Proof.OpcodeRow.admits, Sys2Proof.encode, Sys2Proof.packR_masked]⟩

theorem Sys2Proof.Laws.EncodeInTable.lt (rd rs1 rs2 : Sys2Proof.RegIdx) :
    Sys2Proof.Laws.EncodeInTable.Statement (.lt rd rs1 rs2) :=
  ⟨⟨"LT", 0x00000022#32, 0x000FFFFF#32⟩, by decide, rfl, by simp [Sys2Proof.OpcodeRow.admits, Sys2Proof.encode, Sys2Proof.packR_masked]⟩

theorem Sys2Proof.Laws.EncodeInTable.lte (rd rs1 rs2 : Sys2Proof.RegIdx) :
    Sys2Proof.Laws.EncodeInTable.Statement (.lte rd rs1 rs2) :=
  ⟨⟨"LTE", 0x00000032#32, 0x000FFFFF#32⟩, by decide, rfl, by simp [Sys2Proof.OpcodeRow.admits, Sys2Proof.encode, Sys2Proof.packR_masked]⟩

theorem Sys2Proof.Laws.EncodeInTable.t (rd rs1 rs2 : Sys2Proof.RegIdx) :
    Sys2Proof.Laws.EncodeInTable.Statement (.t rd rs1 rs2) :=
  ⟨⟨"T", 0x00000082#32, 0x000FFFFF#32⟩, by decide, rfl, by simp [Sys2Proof.OpcodeRow.admits, Sys2Proof.encode, Sys2Proof.packR_masked]⟩

theorem Sys2Proof.Laws.EncodeInTable.ne (rd rs1 rs2 : Sys2Proof.RegIdx) :
    Sys2Proof.Laws.EncodeInTable.Statement (.ne rd rs1 rs2) :=
  ⟨⟨"NE", 0x00000092#32, 0x000FFFFF#32⟩, by decide, rfl, by simp [Sys2Proof.OpcodeRow.admits, Sys2Proof.encode, Sys2Proof.packR_masked]⟩

theorem Sys2Proof.Laws.EncodeInTable.gte (rd rs1 rs2 : Sys2Proof.RegIdx) :
    Sys2Proof.Laws.EncodeInTable.Statement (.gte rd rs1 rs2) :=
  ⟨⟨"GTE", 0x000000A2#32, 0x000FFFFF#32⟩, by decide, rfl, by simp [Sys2Proof.OpcodeRow.admits, Sys2Proof.encode, Sys2Proof.packR_masked]⟩

theorem Sys2Proof.Laws.EncodeInTable.gt (rd rs1 rs2 : Sys2Proof.RegIdx) :
    Sys2Proof.Laws.EncodeInTable.Statement (.gt rd rs1 rs2) :=
  ⟨⟨"GT", 0x000000B2#32, 0x000FFFFF#32⟩, by decide, rfl, by simp [Sys2Proof.OpcodeRow.admits, Sys2Proof.encode, Sys2Proof.packR_masked]⟩

theorem Sys2Proof.Laws.EncodeInTable.fi (rd rs1 : Sys2Proof.RegIdx) (imm : Sys2Proof.Imm) :
    Sys2Proof.Laws.EncodeInTable.Statement (.fi rd rs1 imm) :=
  ⟨⟨"FI", 0x0000000A#32, 0x000000FF#32⟩, by decide, rfl, by simp [Sys2Proof.OpcodeRow.admits, Sys2Proof.encode, Sys2Proof.packI_masked]⟩

theorem Sys2Proof.Laws.EncodeInTable.eqi (rd rs1 : Sys2Proof.RegIdx) (imm : Sys2Proof.Imm) :
    Sys2Proof.Laws.EncodeInTable.Statement (.eqi rd rs1 imm) :=
  ⟨⟨"EQI", 0x0000001A#32, 0x000000FF#32⟩, by decide, rfl, by simp [Sys2Proof.OpcodeRow.admits, Sys2Proof.encode, Sys2Proof.packI_masked]⟩

theorem Sys2Proof.Laws.EncodeInTable.lti (rd rs1 : Sys2Proof.RegIdx) (imm : Sys2Proof.Imm) :
    Sys2Proof.Laws.EncodeInTable.Statement (.lti rd rs1 imm) :=
  ⟨⟨"LTI", 0x0000002A#32, 0x000000FF#32⟩, by decide, rfl, by simp [Sys2Proof.OpcodeRow.admits, Sys2Proof.encode, Sys2Proof.packI_masked]⟩

theorem Sys2Proof.Laws.EncodeInTable.ltei (rd rs1 : Sys2Proof.RegIdx) (imm : Sys2Proof.Imm) :
    Sys2Proof.Laws.EncodeInTable.Statement (.ltei rd rs1 imm) :=
  ⟨⟨"LTEI", 0x0000003A#32, 0x000000FF#32⟩, by decide, rfl, by simp [Sys2Proof.OpcodeRow.admits, Sys2Proof.encode, Sys2Proof.packI_masked]⟩

theorem Sys2Proof.Laws.EncodeInTable.ti (rd rs1 : Sys2Proof.RegIdx) (imm : Sys2Proof.Imm) :
    Sys2Proof.Laws.EncodeInTable.Statement (.ti rd rs1 imm) :=
  ⟨⟨"TI", 0x0000008A#32, 0x000000FF#32⟩, by decide, rfl, by simp [Sys2Proof.OpcodeRow.admits, Sys2Proof.encode, Sys2Proof.packI_masked]⟩

theorem Sys2Proof.Laws.EncodeInTable.nei (rd rs1 : Sys2Proof.RegIdx) (imm : Sys2Proof.Imm) :
    Sys2Proof.Laws.EncodeInTable.Statement (.nei rd rs1 imm) :=
  ⟨⟨"NEI", 0x0000009A#32, 0x000000FF#32⟩, by decide, rfl, by simp [Sys2Proof.OpcodeRow.admits, Sys2Proof.encode, Sys2Proof.packI_masked]⟩

theorem Sys2Proof.Laws.EncodeInTable.gtei (rd rs1 : Sys2Proof.RegIdx) (imm : Sys2Proof.Imm) :
    Sys2Proof.Laws.EncodeInTable.Statement (.gtei rd rs1 imm) :=
  ⟨⟨"GTEI", 0x000000AA#32, 0x000000FF#32⟩, by decide, rfl, by simp [Sys2Proof.OpcodeRow.admits, Sys2Proof.encode, Sys2Proof.packI_masked]⟩

theorem Sys2Proof.Laws.EncodeInTable.gti (rd rs1 : Sys2Proof.RegIdx) (imm : Sys2Proof.Imm) :
    Sys2Proof.Laws.EncodeInTable.Statement (.gti rd rs1 imm) :=
  ⟨⟨"GTI", 0x000000BA#32, 0x000000FF#32⟩, by decide, rfl, by simp [Sys2Proof.OpcodeRow.admits, Sys2Proof.encode, Sys2Proof.packI_masked]⟩

theorem Sys2Proof.Laws.EncodeInTable.bf (rs1 rs2 : Sys2Proof.RegIdx) (imm : Sys2Proof.Imm) :
    Sys2Proof.Laws.EncodeInTable.Statement (.bf rs1 rs2 imm) :=
  ⟨⟨"BF", 0x00000006#32, 0x000000FF#32⟩, by decide, rfl, by simp [Sys2Proof.OpcodeRow.admits, Sys2Proof.encode, Sys2Proof.packI_masked]⟩

theorem Sys2Proof.Laws.EncodeInTable.beq (rs1 rs2 : Sys2Proof.RegIdx) (imm : Sys2Proof.Imm) :
    Sys2Proof.Laws.EncodeInTable.Statement (.beq rs1 rs2 imm) :=
  ⟨⟨"BEQ", 0x00000016#32, 0x000000FF#32⟩, by decide, rfl, by simp [Sys2Proof.OpcodeRow.admits, Sys2Proof.encode, Sys2Proof.packI_masked]⟩

theorem Sys2Proof.Laws.EncodeInTable.blt (rs1 rs2 : Sys2Proof.RegIdx) (imm : Sys2Proof.Imm) :
    Sys2Proof.Laws.EncodeInTable.Statement (.blt rs1 rs2 imm) :=
  ⟨⟨"BLT", 0x00000026#32, 0x000000FF#32⟩, by decide, rfl, by simp [Sys2Proof.OpcodeRow.admits, Sys2Proof.encode, Sys2Proof.packI_masked]⟩

theorem Sys2Proof.Laws.EncodeInTable.blte (rs1 rs2 : Sys2Proof.RegIdx) (imm : Sys2Proof.Imm) :
    Sys2Proof.Laws.EncodeInTable.Statement (.blte rs1 rs2 imm) :=
  ⟨⟨"BLTE", 0x00000036#32, 0x000000FF#32⟩, by decide, rfl, by simp [Sys2Proof.OpcodeRow.admits, Sys2Proof.encode, Sys2Proof.packI_masked]⟩

theorem Sys2Proof.Laws.EncodeInTable.beqz (rs1 : Sys2Proof.RegIdx) (imm : Sys2Proof.Imm) :
    Sys2Proof.Laws.EncodeInTable.Statement (.beqz rs1 imm) :=
  ⟨⟨"BEQZ", 0x00000056#32, 0x0F0000FF#32⟩, by decide, rfl, by simp [Sys2Proof.OpcodeRow.admits, Sys2Proof.encode, Sys2Proof.packU_masked]⟩

theorem Sys2Proof.Laws.EncodeInTable.bltz (rs1 : Sys2Proof.RegIdx) (imm : Sys2Proof.Imm) :
    Sys2Proof.Laws.EncodeInTable.Statement (.bltz rs1 imm) :=
  ⟨⟨"BLTZ", 0x00000066#32, 0x0F0000FF#32⟩, by decide, rfl, by simp [Sys2Proof.OpcodeRow.admits, Sys2Proof.encode, Sys2Proof.packU_masked]⟩

theorem Sys2Proof.Laws.EncodeInTable.bltez (rs1 : Sys2Proof.RegIdx) (imm : Sys2Proof.Imm) :
    Sys2Proof.Laws.EncodeInTable.Statement (.bltez rs1 imm) :=
  ⟨⟨"BLTEZ", 0x00000076#32, 0x0F0000FF#32⟩, by decide, rfl, by simp [Sys2Proof.OpcodeRow.admits, Sys2Proof.encode, Sys2Proof.packU_masked]⟩

theorem Sys2Proof.Laws.EncodeInTable.bt (rs1 rs2 : Sys2Proof.RegIdx) (imm : Sys2Proof.Imm) :
    Sys2Proof.Laws.EncodeInTable.Statement (.bt rs1 rs2 imm) :=
  ⟨⟨"BT", 0x00000086#32, 0x000000FF#32⟩, by decide, rfl, by simp [Sys2Proof.OpcodeRow.admits, Sys2Proof.encode, Sys2Proof.packI_masked]⟩

theorem Sys2Proof.Laws.EncodeInTable.bne (rs1 rs2 : Sys2Proof.RegIdx) (imm : Sys2Proof.Imm) :
    Sys2Proof.Laws.EncodeInTable.Statement (.bne rs1 rs2 imm) :=
  ⟨⟨"BNE", 0x00000096#32, 0x000000FF#32⟩, by decide, rfl, by simp [Sys2Proof.OpcodeRow.admits, Sys2Proof.encode, Sys2Proof.packI_masked]⟩

theorem Sys2Proof.Laws.EncodeInTable.bgte (rs1 rs2 : Sys2Proof.RegIdx) (imm : Sys2Proof.Imm) :
    Sys2Proof.Laws.EncodeInTable.Statement (.bgte rs1 rs2 imm) :=
  ⟨⟨"BGTE", 0x000000A6#32, 0x000000FF#32⟩, by decide, rfl, by simp [Sys2Proof.OpcodeRow.admits, Sys2Proof.encode, Sys2Proof.packI_masked]⟩

theorem Sys2Proof.Laws.EncodeInTable.bgt (rs1 rs2 : Sys2Proof.RegIdx) (imm : Sys2Proof.Imm) :
    Sys2Proof.Laws.EncodeInTable.Statement (.bgt rs1 rs2 imm) :=
  ⟨⟨"BGT", 0x000000B6#32, 0x000000FF#32⟩, by decide, rfl, by simp [Sys2Proof.OpcodeRow.admits, Sys2Proof.encode, Sys2Proof.packI_masked]⟩

theorem Sys2Proof.Laws.EncodeInTable.bnez (rs1 : Sys2Proof.RegIdx) (imm : Sys2Proof.Imm) :
    Sys2Proof.Laws.EncodeInTable.Statement (.bnez rs1 imm) :=
  ⟨⟨"BNEZ", 0x000000D6#32, 0x0F0000FF#32⟩, by decide, rfl, by simp [Sys2Proof.OpcodeRow.admits, Sys2Proof.encode, Sys2Proof.packU_masked]⟩

theorem Sys2Proof.Laws.EncodeInTable.bgtez (rs1 : Sys2Proof.RegIdx) (imm : Sys2Proof.Imm) :
    Sys2Proof.Laws.EncodeInTable.Statement (.bgtez rs1 imm) :=
  ⟨⟨"BGTEZ", 0x000000E6#32, 0x0F0000FF#32⟩, by decide, rfl, by simp [Sys2Proof.OpcodeRow.admits, Sys2Proof.encode, Sys2Proof.packU_masked]⟩

theorem Sys2Proof.Laws.EncodeInTable.bgtz (rs1 : Sys2Proof.RegIdx) (imm : Sys2Proof.Imm) :
    Sys2Proof.Laws.EncodeInTable.Statement (.bgtz rs1 imm) :=
  ⟨⟨"BGTZ", 0x000000F6#32, 0x0F0000FF#32⟩, by decide, rfl, by simp [Sys2Proof.OpcodeRow.admits, Sys2Proof.encode, Sys2Proof.packU_masked]⟩

theorem Sys2Proof.Laws.EncodeInTable.jal (rd rs1 : Sys2Proof.RegIdx) (imm : Sys2Proof.Imm) :
    Sys2Proof.Laws.EncodeInTable.Statement (.jal rd rs1 imm) :=
  ⟨⟨"JAL", 0x0000000B#32, 0x000000FF#32⟩, by decide, rfl, by simp [Sys2Proof.OpcodeRow.admits, Sys2Proof.encode, Sys2Proof.packI_masked]⟩
end

