-- ==== Sys2Proof/Laws/Safety.lean ====
section
/-! SUPPORT. What a self-loop is, said once, and a run cut in two; later proofs about the end of a run cite these. -/

namespace Sys2Proof.Machine

/-- Everything a self-loop says: a branch or `JAL` is fetched, it leads to its own address, and from there to the same state. -/
theorem selfLoop_iff (s : State) :
    selfLoop s = true ↔ ∃ iw i t, fetch s = .ok iw ∧ decodeWord iw = .ok i ∧ isTransfer i = true ∧
      exec i s = .next t ∧ t.pc = s.pc ∧ exec i t = .next t := by
  constructor
  · intro h
    simp only [selfLoop] at h
    split at h
    · cases h
    · rename_i iw hf
      split at h
      · cases h
      · rename_i i hd
        rw [Bool.and_eq_true] at h
        obtain ⟨hi, h⟩ := h
        split at h
        · rename_i t ht
          rw [Bool.and_eq_true] at h
          obtain ⟨hp, h⟩ := h
          split at h
          · rename_i u hu
            have e : u = t := of_decide_eq_true h
            exact ⟨iw, i, t, hf, hd, hi, ht, beq_iff_eq.mp hp, e ▸ hu⟩
          · cases h
        · cases h
  · rintro ⟨iw, i, t, hf, hd, hi, ht, hp, hu⟩
    simp [selfLoop, hf, hd, hi, ht, hp, hu]

/-- A run of `j + n` steps is a run of `j` steps and then one of `n`. -/
theorem core_run_add {j : Nat} {s t : State} (h : Sys2Proof.core.run j s = .next t) (n : Nat) :
    Sys2Proof.core.run (j + n) s = Sys2Proof.core.run n t := by
  induction j generalizing s with
  | zero => cases h; rw [Nat.zero_add]
  | succ j ih =>
    rw [core_run_succ] at h
    rw [Nat.succ_add, core_run_succ]
    split at h
    · exact ih h
    · cases h
    · cases h

/-- A state whose step is itself stays for ever. -/
theorem core_run_fixed {s : State} (h : step s = .next s) (n : Nat) : Sys2Proof.core.run n s = .next s := by
  induction n with
  | zero => rfl
  | succ n ih => rw [core_run_succ, h]; exact ih

end Sys2Proof.Machine
end

