-- ==== Sys2Proof/Tests/Slice0.lean ====
section
/-! SUPPORT. Tests of the model, each expected value taken from the spec's own tables (95_test_vectors.md sections 2 and 3, and the
examples of the rules), and one witness for the hypotheses of every statement. -/

namespace Sys2Proof.Tests

open Sys2Proof Sys2Proof.Machine Sys2Proof.Claims

/-! ### Building a small state, and looking at what comes after a step -/

/-- The reset state with `pc`, some registers and some words of RAM (by byte address) set. -/
def stateOf (pc : Word) (regs : List (RegIdx × Word)) (words : List (Nat × Word)) : State :=
  { regs.foldl (fun s p => s.writeReg p.1 p.2) (State.reset.setPc pc) with
    mem := words.foldl (fun m p => m.writeWord p.1 p.2) [] }

/-- The state at 0x40 with the word `w` there and `x[2] = a`, `x[3] = b`. -/
def at40 (w a b : Word) : State := stateOf 0x40#32 [(2, a), (3, b)] [(0x40, w)]

/-- The state at 0x100 with the word `w` there and `x[2] = a`, `x[3] = b`. -/
def at100 (w a b : Word) : State := stateOf 0x100#32 [(2, a), (3, b)] [(0x100, w)]

/-- The next state, if there is one. -/
def nextOf (o : Host.Outcome State Fault Refusal) : Option State :=
  match o with
  | .next t => some t
  | _ => none

/-- The fault, if there is one. -/
def faultOf (o : Host.Outcome State Fault Refusal) : Option Fault :=
  match o with
  | .fault f => some f
  | _ => none

/-- A register after the step. -/
def regAfter (o : Host.Outcome State Fault Refusal) (r : RegIdx) : Option Word := (nextOf o).map (·.readReg r)

/-- `pc` after the step. -/
def pcAfter (o : Host.Outcome State Fault Refusal) : Option Word := (nextOf o).map (·.pc)

/-- A word of RAM after the step. -/
def wordAfter (o : Host.Outcome State Fault Refusal) (a : Nat) : Option Word := (nextOf o).bind (·.mem.readWord a)

theorem next_of_isSome {o : Host.Outcome State Fault Refusal} (h : (nextOf o).isSome = true) : ∃ t, o = .next t := by
  cases o <;> simp_all [nextOf]

theorem fault_of_eq {o : Host.Outcome State Fault Refusal} {f : Fault} (h : faultOf o = some f) : o = .fault f := by
  cases o <;> simp_all [faultOf]

/-! ### Well-formedness: the words of 95_test_vectors.md 2.9, one check refused for each defect of 30_encoding.md R85 -/

/-- Point 1: all eight unassigned primary opcodes. -/
theorem test_wf_refuses_unassigned_opcode : ([0x00000001#32, 0x12300003#32, 0x12300004#32, 0x12300007#32, 0x1230000C#32, 0x1230000D#32, 0x1230000E#32, 0x1230000F#32, 0xFFFFFFFF#32] : List Word).all (fun w => !wellFormedWord w) = true := by decide

/-- Point 2, ALU-R and ALU-I. -/
theorem test_wf_refuses_unassigned_alu_function : ([0x12300020#32, 0x123000B0#32, 0x12300028#32, 0x12300088#32, 0x123000F8#32] : List Word).all (fun w => !wellFormedWord w) = true := by decide

/-- Point 2, CMP-R and CMP-I. -/
theorem test_wf_refuses_unassigned_compare_function : ([0x12000042#32, 0x120000CA#32] : List Word).all (fun w => !wellFormedWord w) = true := by decide

/-- Point 2, BRANCH. -/
theorem test_wf_refuses_unassigned_branch_function : ([0x20000046#32, 0x200000C6#32] : List Word).all (fun w => !wellFormedWord w) = true := by decide

/-- Point 3. -/
theorem test_wf_refuses_function_in_lw_sw_jal : ([0x12000019#32, 0x12000015#32, 0x1200001B#32] : List Word).all (fun w => !wellFormedWord w) = true := by decide

/-- Point 4: bit 8 and bit 19. -/
theorem test_wf_refuses_filler_not_zero : ([0x12300100#32, 0x12380000#32] : List Word).all (fun w => !wellFormedWord w) = true := by decide

/-- Point 5: `MVHI` and a Z branch with bits 27:24 = 0001. -/
theorem test_wf_refuses_slot_not_zero : ([0x11F000B8#32, 0x21000056#32] : List Word).all (fun w => !wellFormedWord w) = true := by decide

/-- The nearest accepted words. -/
theorem test_wf_accepts_nearest : ([0x12300000#32, 0x12300008#32, 0x10F000B8#32, 0x12000009#32, 0x12000005#32, 0x1200000B#32,
    0x20000056#32, 0x12000002#32, 0x1200000A#32] : List Word).all wellFormedWord = true := by decide

/-- The decoder names the defect of each. -/
theorem test_decode_names_the_defect :
    decodeWord 0x12300003#32 = .error (.unassignedOpcode 0b0011#4) ∧
    decodeWord 0x12300020#32 = .error (.unassignedFunction 0b0000#4 0b0010#4) ∧
    decodeWord 0x12380000#32 = .error (.fillerNotZero 0b100000000000#12) ∧
    decodeWord 0x11F000B8#32 = .error (.slotNotZero 1) ∧
    decodeBytes [0x10#8, 0x00#8, 0x30#8] = .error (.truncated 3) := by decide

/-! ### Decoding: words written out from the `iword` strings (95_test_vectors.md 1.2, 1.1) -/

/-- The field extraction example of 95_test_vectors.md 1.1. -/
theorem test_fields : opOf 0x12300010#32 = 0x0#4 ∧ fnOf 0x12300010#32 = 0x1#4 ∧ immOf 0x12300010#32 = 0x3000#16 ∧
    fcOf 0x12300010#32 = 3 ∧ fbOf 0x12300010#32 = 2 ∧ faOf 0x12300010#32 = 1 := by decide

/-- `RD RS1 RS2 000000000000 fn 0000` with RD = 1010, RS1 = 0101, RS2 = 1100. -/
theorem test_decode_alu_r :
    decodeWord 0b1010_0101_1100_000000000000_0000_0000#32 = .ok (.add 10 5 12) ∧
    decodeWord 0b1010_0101_1100_000000000000_0001_0000#32 = .ok (.sub 10 5 12) ∧
    decodeWord 0b1010_0101_1100_000000000000_0100_0000#32 = .ok (.and 10 5 12) ∧
    decodeWord 0b1010_0101_1100_000000000000_0101_0000#32 = .ok (.or 10 5 12) ∧
    decodeWord 0b1010_0101_1100_000000000000_0110_0000#32 = .ok (.xor 10 5 12) ∧
    decodeWord 0b1010_0101_1100_000000000000_1100_0000#32 = .ok (.nand 10 5 12) ∧
    decodeWord 0b1010_0101_1100_000000000000_1101_0000#32 = .ok (.nor 10 5 12) ∧
    decodeWord 0b1010_0101_1100_000000000000_1110_0000#32 = .ok (.xnor 10 5 12) := by decide

/-- `RD RS1 imm fn 1000` with RD = 1010, RS1 = 0101, imm = 0x8001, and `MVHI`. -/
theorem test_decode_alu_i :
    decodeWord 0b1010_0101_1000000000000001_0000_1000#32 = .ok (.addi 10 5 0x8001#16) ∧
    decodeWord 0b1010_0101_1000000000000001_0001_1000#32 = .ok (.subi 10 5 0x8001#16) ∧
    decodeWord 0b1010_0101_1000000000000001_0100_1000#32 = .ok (.andi 10 5 0x8001#16) ∧
    decodeWord 0b1010_0101_1000000000000001_0101_1000#32 = .ok (.ori 10 5 0x8001#16) ∧
    decodeWord 0b1010_0101_1000000000000001_0110_1000#32 = .ok (.xori 10 5 0x8001#16) ∧
    decodeWord 0b1010_0101_1000000000000001_1100_1000#32 = .ok (.nandi 10 5 0x8001#16) ∧
    decodeWord 0b1010_0101_1000000000000001_1101_1000#32 = .ok (.nori 10 5 0x8001#16) ∧
    decodeWord 0b1010_0101_1000000000000001_1110_1000#32 = .ok (.xnori 10 5 0x8001#16) ∧
    decodeWord 0b1010_0000_1000000000000001_1011_1000#32 = .ok (.mvhi 10 0x8001#16) := by decide

/-- `RD RS1 RS2 000000000000 fn 0010`. -/
theorem test_decode_cmp_r :
    decodeWord 0b1010_0101_1100_000000000000_0000_0010#32 = .ok (.f 10 5 12) ∧
    decodeWord 0b1010_0101_1100_000000000000_0001_0010#32 = .ok (.eq 10 5 12) ∧
    decodeWord 0b1010_0101_1100_000000000000_0010_0010#32 = .ok (.lt 10 5 12) ∧
    decodeWord 0b1010_0101_1100_000000000000_0011_0010#32 = .ok (.lte 10 5 12) ∧
    decodeWord 0b1010_0101_1100_000000000000_1000_0010#32 = .ok (.t 10 5 12) ∧
    decodeWord 0b1010_0101_1100_000000000000_1001_0010#32 = .ok (.ne 10 5 12) ∧
    decodeWord 0b1010_0101_1100_000000000000_1010_0010#32 = .ok (.gte 10 5 12) ∧
    decodeWord 0b1010_0101_1100_000000000000_1011_0010#32 = .ok (.gt 10 5 12) := by decide

/-- `RD RS1 imm fn 1010`. -/
theorem test_decode_cmp_i :
    decodeWord 0b1010_0101_1000000000000001_0000_1010#32 = .ok (.fi 10 5 0x8001#16) ∧
    decodeWord 0b1010_0101_1000000000000001_0001_1010#32 = .ok (.eqi 10 5 0x8001#16) ∧
    decodeWord 0b1010_0101_1000000000000001_0010_1010#32 = .ok (.lti 10 5 0x8001#16) ∧
    decodeWord 0b1010_0101_1000000000000001_0011_1010#32 = .ok (.ltei 10 5 0x8001#16) ∧
    decodeWord 0b1010_0101_1000000000000001_1000_1010#32 = .ok (.ti 10 5 0x8001#16) ∧
    decodeWord 0b1010_0101_1000000000000001_1001_1010#32 = .ok (.nei 10 5 0x8001#16) ∧
    decodeWord 0b1010_0101_1000000000000001_1010_1010#32 = .ok (.gtei 10 5 0x8001#16) ∧
    decodeWord 0b1010_0101_1000000000000001_1011_1010#32 = .ok (.gti 10 5 0x8001#16) := by decide

/-- `RS1 RS2 imm fn 0110` and `RS1 0000 imm fn 0110`. -/
theorem test_decode_branch :
    decodeWord 0b1010_0101_1000000000000001_0000_0110#32 = .ok (.bf 10 5 0x8001#16) ∧
    decodeWord 0b1010_0101_1000000000000001_0001_0110#32 = .ok (.beq 10 5 0x8001#16) ∧
    decodeWord 0b1010_0101_1000000000000001_0010_0110#32 = .ok (.blt 10 5 0x8001#16) ∧
    decodeWord 0b1010_0101_1000000000000001_0011_0110#32 = .ok (.blte 10 5 0x8001#16) ∧
    decodeWord 0b1010_0101_1000000000000001_1000_0110#32 = .ok (.bt 10 5 0x8001#16) ∧
    decodeWord 0b1010_0101_1000000000000001_1001_0110#32 = .ok (.bne 10 5 0x8001#16) ∧
    decodeWord 0b1010_0101_1000000000000001_1010_0110#32 = .ok (.bgte 10 5 0x8001#16) ∧
    decodeWord 0b1010_0101_1000000000000001_1011_0110#32 = .ok (.bgt 10 5 0x8001#16) ∧
    decodeWord 0b1010_0000_1000000000000001_0101_0110#32 = .ok (.beqz 10 0x8001#16) ∧
    decodeWord 0b1010_0000_1000000000000001_0110_0110#32 = .ok (.bltz 10 0x8001#16) ∧
    decodeWord 0b1010_0000_1000000000000001_0111_0110#32 = .ok (.bltez 10 0x8001#16) ∧
    decodeWord 0b1010_0000_1000000000000001_1101_0110#32 = .ok (.bnez 10 0x8001#16) ∧
    decodeWord 0b1010_0000_1000000000000001_1110_0110#32 = .ok (.bgtez 10 0x8001#16) ∧
    decodeWord 0b1010_0000_1000000000000001_1111_0110#32 = .ok (.bgtz 10 0x8001#16) := by decide

/-- `RD RS1 imm 0000 1001`, `RS1 RS2 imm 0000 0101`, `RD RS1 imm 0000 1011`. -/
theorem test_decode_lw_sw_jal :
    decodeWord 0b1010_0101_1000000000000001_0000_1001#32 = .ok (.lw 10 5 0x8001#16) ∧
    decodeWord 0b1010_0101_1000000000000001_0000_0101#32 = .ok (.sw 10 5 0x8001#16) ∧
    decodeWord 0b1010_0101_1000000000000001_0000_1011#32 = .ok (.jal 10 5 0x8001#16) := by decide

/-- Byte order: the lowest byte of a word holds `fn` and `op` (20_memory.md R43). -/
theorem test_bytes : bytesOfWord 0x12300010#32 = [0x10#8, 0x00#8, 0x30#8, 0x12#8] ∧
    decodeBytes [0x10#8, 0x00#8, 0x30#8, 0x12#8, 0xAA#8] = .ok (.sub 1 2 3, [0xAA#8]) := by decide

/-! ### ALU-R (95_test_vectors.md 2.1): `x[2]` = 7FFFFFFF and `x[3]` = 1, then the second operand set -/

theorem test_add : regAfter (step (at40 0x12300000#32 0x7FFFFFFF#32 0x00000001#32)) 1 = some 0x80000000#32 := by decide

theorem test_add_second : regAfter (step (at40 0x12300000#32 0x0F0F1234#32 0x00FF00FF#32)) 1 = some 0x100E1333#32 := by decide

theorem test_sub : regAfter (step (at40 0x12300010#32 0x7FFFFFFF#32 0x00000001#32)) 1 = some 0x7FFFFFFE#32 := by decide

theorem test_sub_second : regAfter (step (at40 0x12300010#32 0x0F0F1234#32 0x00FF00FF#32)) 1 = some 0x0E101135#32 := by decide

theorem test_and : regAfter (step (at40 0x12300040#32 0x7FFFFFFF#32 0x00000001#32)) 1 = some 0x00000001#32 := by decide

theorem test_and_second : regAfter (step (at40 0x12300040#32 0x0F0F1234#32 0x00FF00FF#32)) 1 = some 0x000F0034#32 := by decide

theorem test_or : regAfter (step (at40 0x12300050#32 0x7FFFFFFF#32 0x00000001#32)) 1 = some 0x7FFFFFFF#32 := by decide

theorem test_or_second : regAfter (step (at40 0x12300050#32 0x0F0F1234#32 0x00FF00FF#32)) 1 = some 0x0FFF12FF#32 := by decide

theorem test_xor : regAfter (step (at40 0x12300060#32 0x7FFFFFFF#32 0x00000001#32)) 1 = some 0x7FFFFFFE#32 := by decide

theorem test_xor_second : regAfter (step (at40 0x12300060#32 0x0F0F1234#32 0x00FF00FF#32)) 1 = some 0x0FF012CB#32 := by decide

theorem test_nand : regAfter (step (at40 0x123000C0#32 0x7FFFFFFF#32 0x00000001#32)) 1 = some 0xFFFFFFFE#32 := by decide

theorem test_nand_second : regAfter (step (at40 0x123000C0#32 0x0F0F1234#32 0x00FF00FF#32)) 1 = some 0xFFF0FFCB#32 := by decide

theorem test_nor : regAfter (step (at40 0x123000D0#32 0x7FFFFFFF#32 0x00000001#32)) 1 = some 0x80000000#32 := by decide

theorem test_nor_second : regAfter (step (at40 0x123000D0#32 0x0F0F1234#32 0x00FF00FF#32)) 1 = some 0xF000ED00#32 := by decide

theorem test_xnor : regAfter (step (at40 0x123000E0#32 0x7FFFFFFF#32 0x00000001#32)) 1 = some 0x80000001#32 := by decide

theorem test_xnor_second : regAfter (step (at40 0x123000E0#32 0x0F0F1234#32 0x00FF00FF#32)) 1 = some 0xF00FED34#32 := by decide

/-- One register three times: read before written; `pc` advances. -/
theorem test_add_same_register : regAfter (step (stateOf 0x40#32 [(1, 0x80000001#32)] [(0x40, 0x11100000#32)])) 1 = some 0x00000002#32 ∧
    pcAfter (step (stateOf 0x40#32 [(1, 0x80000001#32)] [(0x40, 0x11100000#32)])) = some 0x44#32 := by decide

/-! ### ALU-I (95_test_vectors.md 2.2): `x[2]` = 0F0F1234, the immediates 0x8001 and 0x00FF -/

theorem test_addi_negative : regAfter (step (at40 0x12800108#32 0x0F0F1234#32 0#32)) 1 = some 0x0F0E9235#32 := by decide

theorem test_addi_positive : regAfter (step (at40 0x1200FF08#32 0x0F0F1234#32 0#32)) 1 = some 0x0F0F1333#32 := by decide

theorem test_subi_negative : regAfter (step (at40 0x12800118#32 0x0F0F1234#32 0#32)) 1 = some 0x0F0F9233#32 := by decide

theorem test_subi_positive : regAfter (step (at40 0x1200FF18#32 0x0F0F1234#32 0#32)) 1 = some 0x0F0F1135#32 := by decide

theorem test_andi_negative : regAfter (step (at40 0x12800148#32 0x0F0F1234#32 0#32)) 1 = some 0x0F0F0000#32 := by decide

theorem test_andi_positive : regAfter (step (at40 0x1200FF48#32 0x0F0F1234#32 0#32)) 1 = some 0x00000034#32 := by decide

theorem test_ori_negative : regAfter (step (at40 0x12800158#32 0x0F0F1234#32 0#32)) 1 = some 0xFFFF9235#32 := by decide

theorem test_ori_positive : regAfter (step (at40 0x1200FF58#32 0x0F0F1234#32 0#32)) 1 = some 0x0F0F12FF#32 := by decide

theorem test_xori_negative : regAfter (step (at40 0x12800168#32 0x0F0F1234#32 0#32)) 1 = some 0xF0F09235#32 := by decide

theorem test_xori_positive : regAfter (step (at40 0x1200FF68#32 0x0F0F1234#32 0#32)) 1 = some 0x0F0F12CB#32 := by decide

theorem test_nandi_negative : regAfter (step (at40 0x128001C8#32 0x0F0F1234#32 0#32)) 1 = some 0xF0F0FFFF#32 := by decide

theorem test_nandi_positive : regAfter (step (at40 0x1200FFC8#32 0x0F0F1234#32 0#32)) 1 = some 0xFFFFFFCB#32 := by decide

theorem test_nori_negative : regAfter (step (at40 0x128001D8#32 0x0F0F1234#32 0#32)) 1 = some 0x00006DCA#32 := by decide

theorem test_nori_positive : regAfter (step (at40 0x1200FFD8#32 0x0F0F1234#32 0#32)) 1 = some 0xF0F0ED00#32 := by decide

theorem test_xnori_negative : regAfter (step (at40 0x128001E8#32 0x0F0F1234#32 0#32)) 1 = some 0x0F0F6DCA#32 := by decide

theorem test_xnori_positive : regAfter (step (at40 0x1200FFE8#32 0x0F0F1234#32 0#32)) 1 = some 0xF0F0ED34#32 := by decide

theorem test_mvhi_device_base : regAfter (step (stateOf 0x40#32 [(12, 0x12345678#32)] [(0x40, 0xC0F000B8#32)])) 12 = some 0xF0000000#32 := by decide

theorem test_mvhi_clears_low_half : regAfter (step (stateOf 0x40#32 [(1, 0xFFFFFFFF#32)] [(0x40, 0x101234B8#32)])) 1 = some 0x12340000#32 := by decide

/-! ### LW and SW (95_test_vectors.md 2.3) -/

theorem test_lw_last_word : regAfter (step (stateOf 0x40#32 [] [(0x40, 0x121FFC09#32), (0x1FFC, 0x11223344#32)])) 1 = some 0x11223344#32 := by decide

theorem test_lw_wraps_and_reads_old_base : regAfter (step (stateOf 0x40#32 [(2, 0xFFFFFFFF#32)] [(0, 0xAAAA5555#32), (0x40, 0x12000109#32)])) 1 =
    some 0xAAAA5555#32 := by decide

theorem test_sw_ram : wordAfter (step (stateOf 0x40#32 [(1, 0x100#32), (2, 0xCAFEF00D#32)] [(0x40, 0x12000805#32)])) 0x108 =
    some 0xCAFEF00D#32 := by decide

/-- `x[12]` = F0000000 and `x[1]` = 12345678, the word `w` at 0x40. -/
def deviceState (w : Word) : State := stateOf 0x40#32 [(12, 0xF0000000#32), (1, 0x12345678#32)] [(0x40, w)]

theorem test_sw_displays : (nextOf (step (deviceState 0xC1000005#32))).map (·.hex) = some 0x5678#16 ∧
    (nextOf (step (deviceState 0xC1000405#32))).map (·.ledr) = some 0x278#10 ∧
    (nextOf (step (deviceState 0xC1000805#32))).map (·.ledg) = some 0x78#8 := by decide

theorem test_lw_inputs :
    regAfter (step (setKeyInputs [0xF#4] (deviceState 0x2C001009#32))) 2 = some 0x0000000F#32 ∧
    regAfter (step (setSwitchInputs [0x2A5#10] (deviceState 0x2C001409#32))) 2 = some 0x000002A5#32 := by decide

theorem test_data_faults :
    faultOf (step (at40 0x12000209#32 0x100#32 0#32)) = some (.misalignedAccess 0x102#32) ∧
    faultOf (step (deviceState 0x1C001109#32)) = some (.misalignedAccess 0xF0000011#32) ∧
    faultOf (step (at40 0x12000009#32 0x2000#32 0#32)) = some (.unmappedAccess 0x2000#32 .load) ∧
    faultOf (step (at40 0x12FFFC09#32 0#32 0#32)) = some (.unmappedAccess 0xFFFFFFFC#32 .load) ∧
    faultOf (step (deviceState 0x1C000009#32)) = some (.unmappedAccess 0xF0000000#32 .load) ∧
    faultOf (step (deviceState 0xC1001005#32)) = some (.unmappedAccess 0xF0000010#32 .store) ∧
    faultOf (step (deviceState 0xC1000C05#32)) = some (.unmappedAccess 0xF000000C#32 .store) ∧
    faultOf (step (at40 0x12000009#32 0x300#32 0#32)) = some (.undefinedRead 0x300#32) := by decide

/-! ### Compares (95_test_vectors.md 2.4, 2.5): pairs A and C tell signed from unsigned; pair B, equal operands -/

theorem test_f_signed : regAfter (step (at40 0x12300002#32 0x80000000#32 0x7FFFFFFF#32)) 1 = some 0#32 := by decide

theorem test_f_equal : regAfter (step (at40 0x12300002#32 5#32 5#32)) 1 = some 0#32 := by decide

theorem test_eq_signed : regAfter (step (at40 0x12300012#32 0x80000000#32 0x7FFFFFFF#32)) 1 = some 0#32 := by decide

theorem test_eq_equal : regAfter (step (at40 0x12300012#32 5#32 5#32)) 1 = some 1#32 := by decide

theorem test_lt_signed : regAfter (step (at40 0x12300022#32 0x80000000#32 0x7FFFFFFF#32)) 1 = some 1#32 := by decide

theorem test_lt_equal : regAfter (step (at40 0x12300022#32 5#32 5#32)) 1 = some 0#32 := by decide

theorem test_lte_signed : regAfter (step (at40 0x12300032#32 0x80000000#32 0x7FFFFFFF#32)) 1 = some 1#32 := by decide

theorem test_lte_equal : regAfter (step (at40 0x12300032#32 5#32 5#32)) 1 = some 1#32 := by decide

theorem test_t_signed : regAfter (step (at40 0x12300082#32 0x80000000#32 0x7FFFFFFF#32)) 1 = some 1#32 := by decide

theorem test_t_equal : regAfter (step (at40 0x12300082#32 5#32 5#32)) 1 = some 1#32 := by decide

theorem test_ne_signed : regAfter (step (at40 0x12300092#32 0x80000000#32 0x7FFFFFFF#32)) 1 = some 1#32 := by decide

theorem test_ne_equal : regAfter (step (at40 0x12300092#32 5#32 5#32)) 1 = some 0#32 := by decide

theorem test_gte_signed : regAfter (step (at40 0x123000A2#32 0x80000000#32 0x7FFFFFFF#32)) 1 = some 0#32 := by decide

theorem test_gte_equal : regAfter (step (at40 0x123000A2#32 5#32 5#32)) 1 = some 1#32 := by decide

theorem test_gt_signed : regAfter (step (at40 0x123000B2#32 0x80000000#32 0x7FFFFFFF#32)) 1 = some 0#32 := by decide

theorem test_gt_equal : regAfter (step (at40 0x123000B2#32 5#32 5#32)) 1 = some 0#32 := by decide

theorem test_gt_swapped : regAfter (step (at40 0x132000B2#32 0x80000000#32 0x7FFFFFFF#32)) 1 = some 1#32 := by decide

theorem test_fi_sign_extends : regAfter (step (at40 0x1280000A#32 0x00008000#32 0#32)) 1 = some 0#32 := by decide

theorem test_fi_equal : regAfter (step (at40 0x1280000A#32 0xFFFF8000#32 0#32)) 1 = some 0#32 := by decide

theorem test_eqi_sign_extends : regAfter (step (at40 0x1280001A#32 0x00008000#32 0#32)) 1 = some 0#32 := by decide

theorem test_eqi_equal : regAfter (step (at40 0x1280001A#32 0xFFFF8000#32 0#32)) 1 = some 1#32 := by decide

theorem test_lti_sign_extends : regAfter (step (at40 0x1280002A#32 0x00008000#32 0#32)) 1 = some 0#32 := by decide

theorem test_lti_equal : regAfter (step (at40 0x1280002A#32 0xFFFF8000#32 0#32)) 1 = some 0#32 := by decide

theorem test_ltei_sign_extends : regAfter (step (at40 0x1280003A#32 0x00008000#32 0#32)) 1 = some 0#32 := by decide

theorem test_ltei_equal : regAfter (step (at40 0x1280003A#32 0xFFFF8000#32 0#32)) 1 = some 1#32 := by decide

theorem test_ti_sign_extends : regAfter (step (at40 0x1280008A#32 0x00008000#32 0#32)) 1 = some 1#32 := by decide

theorem test_ti_equal : regAfter (step (at40 0x1280008A#32 0xFFFF8000#32 0#32)) 1 = some 1#32 := by decide

theorem test_nei_sign_extends : regAfter (step (at40 0x1280009A#32 0x00008000#32 0#32)) 1 = some 1#32 := by decide

theorem test_nei_equal : regAfter (step (at40 0x1280009A#32 0xFFFF8000#32 0#32)) 1 = some 0#32 := by decide

theorem test_gtei_sign_extends : regAfter (step (at40 0x128000AA#32 0x00008000#32 0#32)) 1 = some 1#32 := by decide

theorem test_gtei_equal : regAfter (step (at40 0x128000AA#32 0xFFFF8000#32 0#32)) 1 = some 1#32 := by decide

theorem test_gti_sign_extends : regAfter (step (at40 0x128000BA#32 0x00008000#32 0#32)) 1 = some 1#32 := by decide

theorem test_gti_equal : regAfter (step (at40 0x128000BA#32 0xFFFF8000#32 0#32)) 1 = some 0#32 := by decide

/-! ### Branches (95_test_vectors.md 2.6) and JAL (2.7) -/

theorem test_bf_signed : pcAfter (step (at100 0x23000306#32 0x80000000#32 0x7FFFFFFF#32)) = some 0x104#32 := by decide

theorem test_bf_equal : pcAfter (step (at100 0x23000306#32 5#32 5#32)) = some 0x104#32 := by decide

theorem test_beq_signed : pcAfter (step (at100 0x23000316#32 0x80000000#32 0x7FFFFFFF#32)) = some 0x104#32 := by decide

theorem test_beq_equal : pcAfter (step (at100 0x23000316#32 5#32 5#32)) = some 0x110#32 := by decide

theorem test_blt_signed : pcAfter (step (at100 0x23000326#32 0x80000000#32 0x7FFFFFFF#32)) = some 0x110#32 := by decide

theorem test_blt_equal : pcAfter (step (at100 0x23000326#32 5#32 5#32)) = some 0x104#32 := by decide

theorem test_blte_signed : pcAfter (step (at100 0x23000336#32 0x80000000#32 0x7FFFFFFF#32)) = some 0x110#32 := by decide

theorem test_blte_equal : pcAfter (step (at100 0x23000336#32 5#32 5#32)) = some 0x110#32 := by decide

theorem test_bt_signed : pcAfter (step (at100 0x23000386#32 0x80000000#32 0x7FFFFFFF#32)) = some 0x110#32 := by decide

theorem test_bt_equal : pcAfter (step (at100 0x23000386#32 5#32 5#32)) = some 0x110#32 := by decide

theorem test_bne_signed : pcAfter (step (at100 0x23000396#32 0x80000000#32 0x7FFFFFFF#32)) = some 0x110#32 := by decide

theorem test_bne_equal : pcAfter (step (at100 0x23000396#32 5#32 5#32)) = some 0x104#32 := by decide

theorem test_bgte_signed : pcAfter (step (at100 0x230003A6#32 0x80000000#32 0x7FFFFFFF#32)) = some 0x104#32 := by decide

theorem test_bgte_equal : pcAfter (step (at100 0x230003A6#32 5#32 5#32)) = some 0x110#32 := by decide

theorem test_bgt_signed : pcAfter (step (at100 0x230003B6#32 0x80000000#32 0x7FFFFFFF#32)) = some 0x104#32 := by decide

theorem test_bgt_equal : pcAfter (step (at100 0x230003B6#32 5#32 5#32)) = some 0x104#32 := by decide

theorem test_beqz_negative : pcAfter (step (at100 0x20FFFC56#32 0xFFFFFFFF#32 0#32)) = some 0x104#32 := by decide

theorem test_beqz_zero : pcAfter (step (at100 0x20FFFC56#32 0#32 0#32)) = some 0xF4#32 := by decide

theorem test_bltz_negative : pcAfter (step (at100 0x20FFFC66#32 0xFFFFFFFF#32 0#32)) = some 0xF4#32 := by decide

theorem test_bltz_zero : pcAfter (step (at100 0x20FFFC66#32 0#32 0#32)) = some 0x104#32 := by decide

theorem test_bltez_negative : pcAfter (step (at100 0x20FFFC76#32 0xFFFFFFFF#32 0#32)) = some 0xF4#32 := by decide

theorem test_bltez_zero : pcAfter (step (at100 0x20FFFC76#32 0#32 0#32)) = some 0xF4#32 := by decide

theorem test_bnez_negative : pcAfter (step (at100 0x20FFFCD6#32 0xFFFFFFFF#32 0#32)) = some 0xF4#32 := by decide

theorem test_bnez_zero : pcAfter (step (at100 0x20FFFCD6#32 0#32 0#32)) = some 0x104#32 := by decide

theorem test_bgtez_negative : pcAfter (step (at100 0x20FFFCE6#32 0xFFFFFFFF#32 0#32)) = some 0x104#32 := by decide

theorem test_bgtez_zero : pcAfter (step (at100 0x20FFFCE6#32 0#32 0#32)) = some 0xF4#32 := by decide

theorem test_bgtz_negative : pcAfter (step (at100 0x20FFFCF6#32 0xFFFFFFFF#32 0#32)) = some 0x104#32 := by decide

theorem test_bgtz_zero : pcAfter (step (at100 0x20FFFCF6#32 0#32 0#32)) = some 0x104#32 := by decide

theorem test_bt_far : pcAfter (step (stateOf 0x1000#32 [] [(0x1000, 0x00800086#32)])) = some 0xFFFE1004#32 := by decide

/-- The old `RA` is the base, then the link is written. -/
theorem test_jal_same_register :
    regAfter (step (stateOf 0x100#32 [(15, 0x200#32)] [(0x100, 0xFF00000B#32)])) 15 = some 0x104#32 ∧
    pcAfter (step (stateOf 0x100#32 [(15, 0x200#32)] [(0x100, 0xFF00000B#32)])) = some 0x200#32 := by decide

/-- `JAL R9,-2(R2)`. -/
theorem test_jal_backwards : pcAfter (step (at100 0x92FFFE0B#32 0x200#32 0#32)) = some 0x1F8#32 ∧
    regAfter (step (at100 0x92FFFE0B#32 0x200#32 0#32)) 9 = some 0x104#32 := by decide

/-! ### Fetch faults (95_test_vectors.md 2.10) -/

/-- The word at 0x100 with its stored-to mark set. -/
def storedState : State := { at100 0x12300000#32 0#32 0#32 with stored := [0x40] }

theorem test_fetch_faults :
    faultOf (step (stateOf 0x42#32 [] [])) = some (.misalignedFetch 0x42#32) ∧
    faultOf (step (stateOf 0x2000#32 [] [])) = some (.unmappedFetch 0x2000#32) ∧
    faultOf (step (stateOf 0x300#32 [] [])) = some (.undefinedRead 0x300#32) ∧
    faultOf (step storedState) = some (.fetchAfterStore 0x100#32) ∧
    faultOf (step (at40 0xFFFFFFFF#32 0#32 0#32)) = some (.illegalInstruction 0x40#32 0xFFFFFFFF#32) := by decide

/-! ### The assembler (95_test_vectors.md 2.8, programs P2 and P4; 30_encoding.md R89, R90; D14 to D16, D24, D25) -/

/-- The lines of P2 and P4 that use a label: `CALL max(T0)`, `BLE A0,A1,second`, `BR out`, `ADDI R2,R2,arr`, `.WORD`. -/
def asmSource : List Line :=
  [.orig "0x60", .stmt "CALL" [.indexed "max" "T0"], .orig "0x88", .label "max",
    .stmt "ble" [.text "a0", .text "A1", .text "second"], .stmt "OR" [.text "RV", .text "A0", .text "A0"]] ++
  [.stmt "BR" [.text "out"], .label "second", .stmt "or" [.text "rv", .text "a1", .text "a1"], .label "out",
    .stmt "RET" [], .stmt "ADDI" [.text "R2", .text "R2", .text "arr"]] ++
  [.stmt "SW" [.text "R2", .indexed "8" "R1"], .orig "0x100", .label "arr", .word "-3", .word "arr"]

/-- The words P2 and P4 list for those lines (`CALL` to 0x88 has field 0x22). -/
theorem test_assemble : assemble asmSource = .ok
    ([(0x18, 0xF400220B#32), (0x22, 0x60100032#32), (0x23, 0x600002D6#32), (0x24, 0x30000050#32), (0x25, 0x66000116#32)] ++
      [(0x26, 0x31100050#32), (0x27, 0x9F00000B#32), (0x28, 0x22010008#32), (0x29, 0x12000805#32), (0x40, 0xFFFFFFFD#32),
        (0x41, 0x00000100#32)]) := by decide

/-- What the assembler refuses. -/
theorem test_assembler_refuses :
    assemble [.stmt "RET" []] = .error .noOrigin ∧
    assemble [.orig "0x42"] = .error (.badOrigin 0x42) ∧
    assemble [.orig "0x2000"] = .error (.badOrigin 0x2000) ∧
    assemble [.orig "0x40", .word "1", .orig "0x40", .word "2"] = .error (.overlap 16) ∧
    assemble [.orig "0x40", .stmt "MVHI" [.text "R1", .text "x"], .label "x"] = .error .labelInHighHalf ∧
    assemble [.orig "0x40", .stmt "ADDI" [.text "R1", .text "R1", .text "65536"]] = .error (.numberTooWide 65536) ∧
    assemble [.orig "0x40", .label "br"] = .error (.reservedWord "br") := by decide

/-- `0xffff` gives the field 0xFFFF (95_test_vectors.md 1.4). -/
theorem test_assembler_number : assemble [.orig "0x40", .stmt "ADDI" [.text "R1", .text "R2", .text "0xffff"]] =
    .ok [(16, 0x12FFFF08#32)] := by decide

/-! ### Witnesses: for each statement with hypotheses, a state and operands that meet them -/

theorem witness_DecodedWordsEncodeBack : decodeWord 0xF200040B#32 = .ok (.jal 15 2 0x0004#16) := by decide

theorem witness_TableRowsDecideDecoding : ∃ r ∈ opcodeRows, 0x20FFFCF6#32 &&& r.mask = r.value :=
  ⟨⟨"BGTZ", 0x000000F6#32, 0x0F0000FF#32⟩, by decide, by decide⟩

/-- One word for each of the eight lines of `OutsideTable`, and a legal one. -/
theorem witness_IllegalWordsFault :
    ([0x12300003#32, 0x12300020#32, 0x12300088#32, 0x12000042#32, 0x200000C6#32, 0x12000019#32, 0x12380000#32,
      0x11F000B8#32, 0x12300010#32].all (fun w => decide
      (fetch (at40 w 0#32 0#32) = .ok w)) = true) ∧
    (OutsideTable 0x12300003#32 ∧ OutsideTable 0x12300020#32 ∧ OutsideTable 0x12300088#32 ∧ OutsideTable 0x12000042#32) ∧
    (OutsideTable 0x200000C6#32 ∧ OutsideTable 0x12000019#32 ∧ OutsideTable 0x12380000#32 ∧ OutsideTable 0x11F000B8#32) ∧
    ¬ OutsideTable 0x12300010#32 := by
  refine ⟨by decide, ⟨?_, ?_, ?_, ?_⟩, ⟨?_, ?_, ?_, ?_⟩, ?_⟩ <;> unfold OutsideTable <;> decide

/-- The first, the sixteenth and the last word of RAM. -/
def sampleImage : Image := [(0, 0xAAAA5555#32), (16, 0x12300010#32), (2047, 0x11223344#32)]

theorem witness_images : ImageValid sampleImage ∧ imageEntry sampleImage 16 = some 0x12300010#32 ∧
    decodeWord 0x12300010#32 = .ok (.sub 1 2 3) ∧ ImageValid [] ∧ imageEntry [] 16 = none := by
  unfold ImageValid; decide

/-- The hypotheses of `ImageLoadsWordForWord`, `FirstInstructionIsImageEntry16` and `LoadedStartMeetsInvariant`. -/
theorem witness_ImageLoadsWordForWord : ImageValid sampleImage := witness_images.1

theorem witness_FirstInstructionIsImageEntry16 : ImageValid sampleImage ∧ imageEntry sampleImage 16 = some 0x12300010#32 ∧
    decodeWord 0x12300010#32 = .ok (.sub 1 2 3) ∧ ImageValid [] ∧ imageEntry [] 16 = none := witness_images

theorem witness_LoadedStartMeetsInvariant : ImageValid sampleImage := witness_images.1

/-- The last word of RAM. -/
def lastWordState : State := stateOf 0x1FFC#32 [] [(0x1FFC, 0x12300010#32)]

theorem witness_StepRunsDecodedInstruction :
    lastWordState.pc.toNat % 4 = 0 ∧ lastWordState.pc.toNat < 0x2000 ∧ lastWordState.pc.toNat / 4 ∉ lastWordState.stored ∧
    lastWordState.mem.readByte lastWordState.pc.toNat = some 0x10#8 ∧
    lastWordState.mem.readByte (lastWordState.pc.toNat + 1) = some 0x00#8 ∧
    lastWordState.mem.readByte (lastWordState.pc.toNat + 2) = some 0x30#8 ∧
    lastWordState.mem.readByte (lastWordState.pc.toNat + 3) = some 0x12#8 ∧
    decodeBytes [0x10#8, 0x00#8, 0x30#8, 0x12#8] = .ok (.sub 1 2 3, []) := by decide

theorem witness_PlacedWordRunsNext : decodeTableWord 32 0x12300010 = some (.sub 1 2 3) ∧
    lastWordState.pc.toNat % 4 = 0 ∧ lastWordState.pc.toNat < 0x2000 := by decide

/-- Each clause at the ends of its range: misaligned in and outside RAM, 0x1FFC, 0x2000, the highest address. -/
theorem witness_FetchChecksInOrder :
    (stateOf 0x42#32 [] []).pc.toNat % 4 ≠ 0 ∧ (stateOf 0xFFFFFFFF#32 [] []).pc.toNat % 4 ≠ 0 ∧
    (stateOf 0x2000#32 [] []).pc.toNat % 4 = 0 ∧ 0x2000 ≤ (stateOf 0x2000#32 [] []).pc.toNat ∧
    (stateOf 0xFFFFFFFC#32 [] []).pc.toNat % 4 = 0 ∧ 0x2000 ≤ (stateOf 0xFFFFFFFC#32 [] []).pc.toNat ∧
    ((stateOf 0x1FFC#32 [] []).pc.toNat % 4 = 0 ∧ (stateOf 0x1FFC#32 [] []).pc.toNat < 0x2000 ∧
      (stateOf 0x1FFC#32 [] []).mem.readWord (stateOf 0x1FFC#32 [] []).pc.toNat = none) ∧
    (storedState.pc.toNat % 4 = 0 ∧ storedState.pc.toNat < 0x2000 ∧
      storedState.mem.readWord storedState.pc.toNat = some 0x12300000#32 ∧ storedState.pc.toNat / 4 ∈ storedState.stored) ∧
    (lastWordState.pc.toNat % 4 = 0 ∧ lastWordState.pc.toNat < 0x2000 ∧
      lastWordState.mem.readWord lastWordState.pc.toNat = some 0x12300010#32 ∧
      lastWordState.pc.toNat / 4 ∉ lastWordState.stored) := by decide

/-- The fetch of `w` passes, and `LW R1,0(R2)` or `SW R1,0(R2)` has the effective address `a`. -/
def accessState (w a : Word) : State := at40 w a 0#32

/-- The clauses behind the fetch: an illegal word, then for `LW` and `SW` a misaligned, an unmapped and an undefined address. -/
theorem witness_FaultOrderOfAStep :
    ((accessState 0xFFFFFFFF#32 0#32).mem.readWord (accessState 0xFFFFFFFF#32 0#32).pc.toNat = some 0xFFFFFFFF#32 ∧
      (accessState 0xFFFFFFFF#32 0#32).pc.toNat / 4 ∉ (accessState 0xFFFFFFFF#32 0#32).stored ∧ OutsideTable 0xFFFFFFFF#32) ∧
    ([0x1FFE#32, 0x2000#32, 0xF0000000#32, 0xF000000C#32, 0x1FFC#32, 0x3#32, 0xFFFFFFFC#32].all (fun a => decide
      ((accessState 0x12000009#32 a).pc.toNat % 4 = 0 ∧ (accessState 0x12000009#32 a).pc.toNat < 0x2000 ∧
      (accessState 0x12000009#32 a).mem.readWord (accessState 0x12000009#32 a).pc.toNat = some 0x12000009#32 ∧
      (accessState 0x12000009#32 a).pc.toNat / 4 ∉ (accessState 0x12000009#32 a).stored ∧
      (accessState 0x12000009#32 a).readReg 2 + sext32 0#16 = a)) = true) ∧
    decodeWord 0x12000009#32 = .ok (.lw 1 2 0#16) ∧ decodeWord 0x21000005#32 = .ok (.sw 2 1 0#16) ∧
    (0x1FFE#32).toNat % 4 ≠ 0 ∧ ((0x2000#32).toNat % 4 = 0 ∧ 0x2000 ≤ (0x2000#32).toNat) ∧
    ((0x1FFC#32).toNat % 4 = 0 ∧ (accessState 0x12000009#32 0x1FFC#32).mem.readWord 0x1FFC = none) ∧
    ([0x1FFE#32, 0x2000#32, 0xF0000010#32].all (fun a => decide
      ((accessState 0x21000005#32 a).mem.readWord (accessState 0x21000005#32 a).pc.toNat = some 0x21000005#32 ∧
      (accessState 0x21000005#32 a).readReg 2 + sext32 0#16 = a)) = true) :=
  ⟨⟨by decide, by decide, by unfold OutsideTable; decide⟩, by decide, by decide, by decide, by decide, by decide,
    by decide, by decide⟩

/-- A state that meets the invariant and steps. -/
def invState : State := loadWordAt 0x40#32 0x12300010#32 State.reset

theorem witness_StepKeepsInvariant : invState.Inv ∧ ∃ t, step invState = .next t :=
  ⟨⟨valid_writeWord _ _ (by decide) (by decide) valid_empty, List.Pairwise.nil, by intro i hi; cases hi⟩,
    next_of_isSome (by decide)⟩

theorem witness_MvhiResult : (1 : RegIdx) ≠ 0 ∧
    fetch (at40 (wordI 1 1 0xF000#16 0xB8) 0#32 0#32) = .ok (wordI 1 1 0xF000#16 0xB8) := by decide

theorem witness_NoOperations : fetch (at40 0#32 0#32 0#32) = .ok 0x00000000#32 := by decide

theorem witness_CompareWordsFollowConditionTable :
    fetch (at40 0x12300022#32 1#32 2#32) = .ok 0x12300022#32 ∧ ¬ OutsideTable 0x12300022#32 ∧
    opOf 0x12300022#32 = 0b0010#4 ∧
    fetch (at40 0x128000BA#32 1#32 2#32) = .ok 0x128000BA#32 ∧ ¬ OutsideTable 0x128000BA#32 ∧
    opOf 0x128000BA#32 = 0b1010#4 :=
  ⟨by decide, by unfold OutsideTable; decide, by decide, by decide, by unfold OutsideTable; decide, by decide⟩

/-- Both cases of a two-register branch, at equal operands and at the ends of the signed range. -/
theorem witness_TwoRegisterBranches :
    (at100 0x23000316#32 5#32 5#32).readReg 2 = (at100 0x23000316#32 5#32 5#32).readReg 3 ∧
    ((at100 0x23000326#32 0x80000000#32 0x7FFFFFFF#32).readReg 2).toInt <
      ((at100 0x23000326#32 0x80000000#32 0x7FFFFFFF#32).readReg 3).toInt ∧
    ¬ ((at100 0x23000326#32 5#32 5#32).readReg 2).toInt < ((at100 0x23000326#32 5#32 5#32).readReg 3).toInt := by decide

theorem witness_CompareWithZeroBranches :
    ((at100 0x20FFFC66#32 0x80000000#32 0#32).readReg 2).toInt < 0 ∧
    ¬ ((at100 0x20FFFC66#32 0#32 0#32).readReg 2).toInt < 0 ∧ (15 : RegIdx) ≠ 0 ∧
    fetch (at100 (wordI 2 15 0#16 0x56) 0#32 0#32) = .ok (wordI 2 15 0#16 0x56) ∧
    fetch (at100 (wordI 2 1 0#16 0xF6) 0#32 0#32) = .ok (wordI 2 1 0#16 0xF6) := by decide

theorem witness_BranchWordsFollowConditionTable :
    fetch (at100 0x23000326#32 1#32 2#32) = .ok 0x23000326#32 ∧ ¬ OutsideTable 0x23000326#32 ∧
    opOf 0x23000326#32 = 0b0110#4 ∧ bitCond (fnOf 0x23000326#32) 1#32 2#32 ∧
    fetch (at100 0x20FFFCF6#32 0#32 0#32) = .ok 0x20FFFCF6#32 ∧ ¬ OutsideTable 0x20FFFCF6#32 ∧
    opOf 0x20FFFCF6#32 = 0b0110#4 ∧ ¬ bitCond (fnOf 0x20FFFCF6#32) 0#32 0#32 :=
  ⟨by decide, by unfold OutsideTable; decide, by decide, by unfold bitCond plainCond; decide, by decide,
    by unfold OutsideTable; decide, by decide, by unfold bitCond plainCond; decide⟩

/-- A misaligned base, a target at 0x2000, and the words with `fn` 1 and 15. -/
theorem witness_JalLinksAndJumps :
    (∃ t, exec (.jal 15 2 4#16) (at100 0#32 0x202#32 0#32) = .next t) ∧
    ((at100 0#32 0x202#32 0#32).readReg 2).toNat % 4 ≠ 0 ∧
    ((at100 0#32 0x1FF0#32 0#32).readReg 2).toNat % 4 = 0 ∧
    0x2000 ≤ ((at100 0#32 0x1FF0#32 0#32).readReg 2 + 4#32 * sext32 4#16).toNat ∧
    fetch (at40 (wordI 1 2 0#16 (1 * 2 ^ 4 + 0x0B)) 0#32 0#32) = .ok (wordI 1 2 0#16 (1 * 2 ^ 4 + 0x0B)) ∧
    fetch (at40 (wordI 1 2 0#16 (15 * 2 ^ 4 + 0x0B)) 0#32 0#32) = .ok (wordI 1 2 0#16 (15 * 2 ^ 4 + 0x0B)) :=
  ⟨next_of_isSome (by decide), by decide, by decide, by decide, by decide, by decide⟩

/-- `JAL` through a misaligned base (95_test_vectors.md 2.7, the row that ends at 0x212). -/
theorem witness_OnlyJalMisalignsPc : (at100 0xF200040B#32 0x202#32 0#32).pc.toNat % 4 = 0 ∧
    ∃ t, step (at100 0xF200040B#32 0x202#32 0#32) = .next t ∧ t.pc.toNat % 4 ≠ 0 := by
  refine ⟨by decide, ?_⟩
  obtain ⟨t, ht⟩ := next_of_isSome (o := step (at100 0xF200040B#32 0x202#32 0#32)) (by decide)
  have hp : pcAfter (step (at100 0xF200040B#32 0x202#32 0#32)) = some 0x212#32 := by decide
  rw [ht] at hp
  have e : t.pc = 0x212#32 := Option.some.inj hp
  exact ⟨t, ht, by rw [e]; decide⟩

/-- The three groups: `pc + 4`, a branch taken and not taken, `JAL`. -/
theorem witness_PcAfterEachGroup :
    (∃ t, exec (.add 1 2 3) State.reset = .next t) ∧ opOf (encode (.add 1 2 3)) ≠ 0b0110#4 ∧
    opOf (encode (.add 1 2 3)) ≠ 0b1011#4 ∧
    (∃ t, exec (.beqz 2 3#16) State.reset = .next t) ∧ opOf (encode (.beqz 2 3#16)) = 0b0110#4 ∧
    bitCond (fnOf (encode (.beqz 2 3#16))) 0#32 0#32 ∧ ¬ bitCond (fnOf (encode (.bne 2 3 3#16))) 0#32 0#32 ∧
    (∃ t, exec (.jal 15 2 4#16) State.reset = .next t) ∧ opOf (encode (.jal 15 2 4#16)) = 0b1011#4 :=
  ⟨⟨_, rfl⟩, by decide, by decide, ⟨_, rfl⟩, by decide, by unfold bitCond plainCond; decide,
    by unfold bitCond plainCond; decide, ⟨_, rfl⟩, by decide⟩

/-- `LW`, each clause at the ends of its range. -/
theorem witness_LoadWordInEveryCase :
    ([0x1#32, 0x1FFE#32, 0xF0000011#32, 0xFFFFFFFF#32].all (fun a => decide
      (a.toNat % 4 ≠ 0)) = true) ∧
    (lastWordState.mem.readWord 0x1FFC = some 0x12300010#32 ∧ (0x1FFC#32).toNat % 4 = 0 ∧ (0x1FFC#32).toNat < 0x2000) ∧
    lastWordState.mem.readWord 0 = none ∧
    (deviceState 0#32).readReg 12 + sext32 0x10#16 = 0xF0000010#32 ∧
    (deviceState 0#32).readReg 12 + sext32 0x14#16 = 0xF0000014#32 ∧
    ([0x2000#32, 0xEFFFFFFC#32, 0xF0000000#32, 0xF000000C#32, 0xF0000018#32, 0xFFFFFFFC#32].all (fun a => decide
      (a.toNat % 4 = 0 ∧ 0x2000 ≤ a.toNat ∧ a ≠ 0xF0000010#32 ∧ a ≠ 0xF0000014#32)) = true) ∧
    ([1, 15].all (fun fn => decide
      (fetch (at40 (wordI 1 2 0#16 (fn * 2 ^ 4 + 0x09)) 0#32 0#32) =
      .ok (wordI 1 2 0#16 (fn * 2 ^ 4 + 0x09)))) = true) := by decide

/-- `R12` holds the device base; the second load of `KeyLoads` goes through it again. -/
theorem witness_KeyLoads : (deviceState 0#32).readReg 12 + sext32 0x10#16 = 0xF0000010#32 ∧
    ((nextOf (exec (.lw 2 12 0x10#16) (setKeyInputs [0x0#4, 0xF#4] (deviceState 0#32)))).map
      (fun t => t.readReg 12 + sext32 0x10#16)) = some 0xF0000010#32 := by decide

theorem witness_SwitchLoads : (deviceState 0#32).readReg 12 + sext32 0x14#16 = 0xF0000014#32 := by decide

/-- `SW`, each clause at the ends of its range. -/
theorem witness_StoreWordInEveryCase :
    ([0x1#32, 0x1FFE#32, 0xF0000002#32, 0xFFFFFFFF#32].all (fun a => decide
      (a.toNat % 4 ≠ 0)) = true) ∧
    ([0x0#32, 0x1FFC#32].all (fun a => decide
      (a.toNat % 4 = 0 ∧ a.toNat < 0x2000)) = true) ∧
    ([(0x0#16, 0xF0000000#32), (0x4#16, 0xF0000004#32), (0x8#16, 0xF0000008#32)].all (fun d => decide
      ((deviceState 0#32).readReg 12 + sext32 d.1 = d.2)) = true) ∧
    ([0x2000#32, 0xF000000C#32, 0xF0000010#32, 0xF0000014#32, 0xFFFFFFFC#32].all (fun a => decide
      (a.toNat % 4 = 0 ∧ 0x2000 ≤ a.toNat ∧ a ≠ 0xF0000000#32 ∧ a ≠ 0xF0000004#32 ∧ a ≠ 0xF0000008#32)) = true) ∧
    ([1, 15].all (fun fn => decide
      (fetch (at40 (wordI 1 2 0#16 (fn * 2 ^ 4 + 0x05)) 0#32 0#32) =
      .ok (wordI 1 2 0#16 (fn * 2 ^ 4 + 0x05)))) = true) := by decide

/-- `SW R3,4(R2)` to the last word, and a load that names the same word through another register. -/
theorem witness_StoreThenLoadReturnsValue :
    ((at40 0#32 0x1FF8#32 9#32).readReg 2 + sext32 4#16).toNat % 4 = 0 ∧
    ((at40 0#32 0x1FF8#32 9#32).readReg 2 + sext32 4#16).toNat < 0x2000 ∧
    ((nextOf (exec (.sw 2 3 4#16) (at40 0#32 0x1FF8#32 9#32))).map (fun t => t.readReg 0 + sext32 0x1FFC#16)) =
      some ((at40 0#32 0x1FF8#32 9#32).readReg 2 + sext32 4#16) := by decide

/-- `R2` points at 0x100, and the word after the store, at 0x44, is an instruction. -/
def goOnState : State := stateOf 0x44#32 [(2, 0x100#32), (3, 9#32)] [(0x48, 0#32)]

/-- The machine goes on one more step after the store. -/
theorem witness_StoredWordIsNeverFetched :
    (goOnState.readReg 2 + sext32 0#16).toNat % 4 = 0 ∧ (goOnState.readReg 2 + sext32 0#16).toNat < 0x2000 ∧
    ((nextOf (exec (.sw 2 3 0#16) goOnState)).bind (fun t => nextOf (Sys2Proof.core.run 1 t))).isSome = true := by decide

theorem witness_OnlyLoadsAndStoresTouchMemory :
    (∀ rs1 rs2 imm, Instr.jal 15 2 4#16 ≠ .sw rs1 rs2 imm) ∧ (∀ rd rs1 imm, Instr.jal 15 2 4#16 ≠ .lw rd rs1 imm) ∧
    (∃ t, exec (.jal 15 2 4#16) State.reset = .next t) ∧
    (∀ rs1 rs2 imm, Instr.lw 1 2 0#16 ≠ .sw rs1 rs2 imm) ∧ (∃ t, exec (.lw 1 2 0x40#16) (at40 0#32 0#32 0#32) = .next t) :=
  ⟨by simp, by simp, ⟨_, rfl⟩, by simp, next_of_isSome (by decide)⟩

/-- Each of the three registers is changed by a store to its address. -/
theorem witness_OutputStoresShowOnTheBoard :
    ([(0x0#16, 0xF0000000#32), (0x4#16, 0xF0000004#32), (0x8#16, 0xF0000008#32)].all (fun d => decide
      ((deviceState 0#32).readReg 12 + sext32 d.1 = d.2)) = true) ∧
    ((nextOf (exec (.sw 12 1 0#16) (deviceState 0#32))).map (fun t => t.hex != (deviceState 0#32).hex)) = some true ∧
    ((nextOf (exec (.sw 12 1 4#16) (deviceState 0#32))).map (fun t => t.ledr != (deviceState 0#32).ledr)) = some true ∧
    ((nextOf (exec (.sw 12 1 8#16) (deviceState 0#32))).map (fun t => t.ledg != (deviceState 0#32).ledg)) = some true := by
  decide

/-- One step that stores to HEX. -/
theorem witness_OutputRecordReplaysDisplays : ∃ t, Sys2Proof.core.run 1 (deviceState 0xC1000005#32) = .next t :=
  next_of_isSome (by decide)

/-- Two machines with different displays; one step of them, and one that faults. -/
theorem witness_DisplaysNeverInfluenceTheRun :
    SameBehindBoard (deviceState 0xC1000005#32) (withOutputs 1#16 2#10 3#8 [] (deviceState 0xC1000005#32)) ∧
    (withOutputs 1#16 2#10 3#8 [] (deviceState 0xC1000005#32)) ≠ deviceState 0xC1000005#32 ∧
    (∃ t, Sys2Proof.core.run 1 (deviceState 0xC1000005#32) = .next t) ∧
    (∃ f, Sys2Proof.core.run 1 (deviceState 0xC1000C05#32) = .fault f) :=
  ⟨⟨rfl, rfl, rfl, rfl, rfl, rfl, rfl, rfl⟩, by decide, next_of_isSome (by decide),
    _, fault_of_eq (f := .unmappedAccess 0xF000000C#32 .store) (by decide)⟩

/-- A load from RAM, which is no load from an input. -/
theorem witness_InputsEnterOnlyThroughDeviceLoads : ∀ w rd rs1 imm,
    fetch (at40 0x12000009#32 0x40#32 0#32) = .ok w → decodeWord w = .ok (.lw rd rs1 imm) →
    (at40 0x12000009#32 0x40#32 0#32).readReg rs1 + sext32 imm ≠ 0xF0000010#32 ∧
      (at40 0x12000009#32 0x40#32 0#32).readReg rs1 + sext32 imm ≠ 0xF0000014#32 := by
  intro w rd rs1 imm hf hd
  have hf' : fetch (at40 0x12000009#32 0x40#32 0#32) = .ok 0x12000009#32 := by decide
  rw [hf'] at hf
  have hw : 0x12000009#32 = w := Except.ok.inj hf
  rw [← hw, show decodeWord 0x12000009#32 = .ok (.lw 1 2 0#16) by decide] at hd
  obtain ⟨rfl, rfl, rfl⟩ := Instr.lw.inj (Except.ok.inj hd)
  decide

theorem witness_SelfBranchEndsTheRun : fetch (at40 0x66FFFF16#32 0#32 0#32) = .ok 0x66FFFF16#32 := by decide

/-- One plain instruction, and then at 0x44 the word `w`, with `R2` pointing there. -/
def haltState (w : Word) : State := stateOf 0x40#32 [(2, 0x44#32)] [(0x40, 0x11000008#32), (0x44, w)]

/-- A run that reaches the branch or the jump to itself at 0x44 (`JAL R15,0(R2)` links there after the arrival). -/
theorem witness_FinishedRunHasOneFinalState :
    (∃ t, FinishesIn 0x44#32 1 (haltState 0x66FFFF16#32) t) ∧ (∃ t, FinishesIn 0x44#32 1 (haltState 0xF200000B#32) t) ∧
    decodeWord 0xF200000B#32 = .ok (.jal 15 2 0#16) := by
  have first : ∀ (w : Word) j, j < 1 → ∀ u, Sys2Proof.core.run j (haltState w) = .next u → u.pc ≠ 0x44#32 := by
    intro w j hj u hu
    obtain rfl : j = 0 := by omega
    obtain rfl := Host.Outcome.next.inj hu
    exact show (0x40#32 : Word) ≠ 0x44#32 by decide
  exact ⟨⟨_, rfl, by decide, first _⟩, ⟨_, rfl, by decide, first _⟩, by decide⟩

/-- The state after a `JAL` to itself has linked is no final state: the run arrived one step earlier (70_reset_and_hazards.md
R299). -/
theorem test_finish_first_arrival (t : State) : ¬ FinishesIn 0x44#32 2 (haltState 0xF200000B#32) t :=
  fun h => h.2.2 1 (by decide) _ rfl (by decide)

/-- The rows of 95_test_vectors.md 2.8 for `BLE R1,R2,3` and `BGE R1,R2,3` at 0x100, taken and not taken. -/
def twoWordState (first a b : Word) : State :=
  stateOf 0x100#32 [(1, a), (2, b)] [(0x100, first), (0x104, 0x600003D6#32)]

theorem witness_TwoWordPseudoInstructions :
    ([wordR 6 1 2 0x32, wordR 6 1 2 0xA2].all (fun w => decide
      ((twoWordState w 5#32 5#32).pc.toNat % 4 = 0 ∧ (twoWordState w 5#32 5#32).pc.toNat + 4 < 0x2000 ∧
      (twoWordState w 5#32 5#32).pc.toNat / 4 ∉ (twoWordState w 5#32 5#32).stored ∧
      (twoWordState w 5#32 5#32).pc.toNat / 4 + 1 ∉ (twoWordState w 5#32 5#32).stored ∧
      (twoWordState w 5#32 5#32).mem.readWord ((twoWordState w 5#32 5#32).pc.toNat + 4) =
        some (BitVec.ofNat 32 (0x600000D6 + (3#16).toNat * 2 ^ 8)) ∧
      (twoWordState w 5#32 5#32).mem.readWord (twoWordState w 5#32 5#32).pc.toNat = some w)) = true) ∧
    (6#32).toInt > (5#32).toInt ∧ (0xFFFFFFFF#32).toInt ≥ (0x80000000#32).toInt := by decide

/-- Both ends of the range, the first number beyond each, and a number as written. -/
theorem witness_NumbersBecomeFields : ((-32768 : Int) ≤ -32768 ∧ (65535 : Int) ≤ 65535) ∧ (-32769 : Int) < -32768 ∧
    (65535 : Int) < 65536 ∧ readNumber "-4" = some (-4) := by decide

/-- A branch from each end of RAM to the other; distances that do not fit; a jump label that is no multiple of 4. -/
theorem witness_LabelsAreReached :
    labelField .pcRelative 0x0#32 0x1FFC#32 = .ok 0x07FE#16 ∧ labelField .pcRelative 0x1FFC#32 0x0#32 = .ok 0xF800#16 ∧
    (0x1FFC#32).toNat % 4 = 0 ∧ (0x1FFC#32).toNat < 0x2000 ∧ (0x42#32).toNat % 4 ≠ 0 := by decide

theorem witness_AssembledImagesFitRam : ∃ im, assemble asmSource = .ok im := ⟨_, test_assemble⟩

end Sys2Proof.Tests
end

section
/-! Sign extension of immediates (00_scope.md R9): the bits and the signed value of `sext32`, and that counting an immediate
in words, `4 * sext_32(imm)` (30_encoding.md R77), stays inside the signed range of 32 bits. -/

namespace Sys2Proof.Claims

open Sys2Proof.Machine

theorem sext32_getLsbD (imm : Imm) {k : Nat} (hk : k < 32) :
    (sext32 imm).getLsbD k = if k < 16 then imm.getLsbD k else imm.getLsbD 15 := by
  rw [sext32, BitVec.getLsbD_signExtend, BitVec.msb_eq_getLsbD_last]
  simp [hk]

@[simp] theorem sext32_toInt (imm : Imm) : (sext32 imm).toInt = imm.toInt :=
  BitVec.toInt_signExtend_of_le (by decide)

theorem imm_toInt_range (imm : Imm) : -32768 ≤ imm.toInt ∧ imm.toInt ≤ 32767 :=
  ⟨imm.le_toInt, Int.le_of_lt_add_one imm.toInt_lt⟩

/-- The product of a 16-bit number and 4 needs 18 bits, so the multiplication modulo 2^32 loses none. -/
theorem four_mul_sext32_toInt (imm : Imm) : (4#32 * sext32 imm).toInt = 4 * imm.toInt := by
  obtain ⟨hlo, hhi⟩ := imm_toInt_range imm
  have four : (4#32).toInt = 4 := by decide
  rw [BitVec.toInt_mul, sext32_toInt, four]
  exact Int.bmod_eq_of_le (by omega) (by omega)

/-- Settles O19: the bits and the value from those of `sext32`, the range from that of a 16-bit number. -/
theorem signExtensionOfImmediates : Obligations.SignExtensionOfImmediates := by
  intro imm
  obtain ⟨hlo, hhi⟩ := imm_toInt_range imm
  have hmul := four_mul_sext32_toInt imm
  exact ⟨fun _ => sext32_getLsbD imm, sext32_toInt imm, hmul, by omega, by omega⟩

end Sys2Proof.Claims
end

section
/-! The step from its parts and the word a loaded image holds (10_state.md R28): what `step` answers once its fetch is known, and
that entry `i` of a valid image is the RAM word at byte address `4*i`. -/

namespace Sys2Proof.Machine

/-! ### One step, from its fetch -/

theorem step_of_fetch_error {s : State} {f : Fault} (hf : fetch s = .error f) : step s = .fault f := by
  simp [step, hf, raise]

theorem step_of_decode {s : State} {w : Word} {i : Instr} (hf : fetch s = .ok w) (hd : decodeWord w = .ok i) :
    step s = exec i s := by
  simp [step, hf, hd]

theorem step_of_decode_error {s : State} {w : Word} {e : DecodeError} (hf : fetch s = .ok w)
    (hd : decodeWord w = .error e) : step s = .fault (.illegalInstruction s.pc w) := by
  simp [step, hf, hd, raise]

/-- A fetch from an aligned RAM address that holds no value (20_memory.md R45). -/
theorem fetch_undefined {s : State} (ha : misaligned s.pc = false) (hr : s.pc.toNat < Config.ramBytes)
    (hm : s.mem.readWord s.pc.toNat = none) : fetch s = .error (.undefinedRead s.pc) := by
  simp [fetch, ha, Nat.not_le.mpr hr, hm]

/-! ### The memory of an image -/

@[simp] theorem withImage_image (b : Boot) (im : Image) : (b.withImage im).image = imageMemory im := rfl

@[simp] theorem imageEntry_nil (i : Nat) : imageEntry [] i = none := rfl

theorem imageEntry_cons (k : Nat) (v : Word) (im : Image) (i : Nat) :
    imageEntry ((k, v) :: im) i = if i = k then some v else imageEntry im i := by
  by_cases h : i = k
  · simp [imageEntry, h]
  · simp [imageEntry, List.lookup_cons, beq_eq_false_iff_ne.mpr h, h]

/-- An image whose indices all lie above `i` has no entry `i`. -/
theorem imageEntry_eq_none {im : Image} {i : Nat} (h : ∀ e ∈ im, i < e.1) : imageEntry im i = none :=
  List.lookup_eq_none_iff.mpr fun e he => bne_iff_ne.mpr (Nat.ne_of_lt (h e he))

/-- Loading an image word by word over a memory: an entry of the image wins, elsewhere the memory shows through. -/
theorem readWord_loadImage {im : Image} (h : im.Pairwise (fun x y => x.1 < y.1)) (m : Memory) (i : Nat) :
    Memory.readWord (im.foldl (fun m e => m.writeWord (4 * e.1) e.2) m) (4 * i) =
      (imageEntry im i).or (m.readWord (4 * i)) := by
  induction im generalizing m with
  | nil => simp
  | cons e im ih =>
    obtain ⟨k, v⟩ := e
    obtain ⟨hk, hp⟩ := List.pairwise_cons.mp h
    rw [List.foldl_cons, ih hp, imageEntry_cons]
    by_cases hi : i = k
    · subst hi
      rw [imageEntry_eq_none hk, readWord_writeWord_same]
      simp
    · rw [readWord_writeWord_other _ _ _ _ (by omega), if_neg hi]

end Sys2Proof.Machine

namespace Sys2Proof.Claims

open Sys2Proof.Machine

/-- 70_reset_and_hazards.md R293: the RAM word at `4*i` is entry `i` of the image. -/
theorem readWord_imageMemory {im : Image} (h : ImageValid im) (i : Nat) :
    (imageMemory im).readWord (4 * i) = imageEntry im i := by
  rw [imageMemory, readWord_loadImage h.1]
  exact Option.or_none

/-- Settles O8: the fetch at 0x40 reads entry 16 of the image, no mark being set after reset. -/
theorem firstInstructionIsImageEntry16 : Obligations.FirstInstructionIsImageEntry16 := by
  intro b im him
  have hread : (State.boot (b.withImage im)).mem.readWord (State.boot (b.withImage im)).pc.toNat = imageEntry im 16 :=
    readWord_imageMemory him 16
  have haligned : misaligned (State.boot (b.withImage im)).pc = false :=
    show misaligned Config.resetPc = false by decide
  have hram : (State.boot (b.withImage im)).pc.toNat < Config.ramBytes :=
    show Config.resetPc.toNat < Config.ramBytes by decide
  have hfetch : ∀ w, imageEntry im 16 = some w → fetch (State.boot (b.withImage im)) = .ok w := fun w hw =>
    fetch_ok_iff.mpr ⟨haligned, hram, hread.trans hw, by simp⟩
  refine ⟨rfl, hfetch, ?_, ?_⟩
  · intro w i hw hd
    exact step_of_decode (hfetch w hw) hd
  · intro hnone
    exact step_of_fetch_error (fetch_undefined haligned hram (hread.trans hnone))

/-- Settles O50: 30 names in two cases and 16 roles, each read off the model's tables. -/
theorem registerNamesAndRoles : Obligations.RegisterNamesAndRoles :=
  ⟨by decide, by decide⟩

end Sys2Proof.Claims
end

section
/-! Where `pc` goes (10_state.md R25, R26): the shared equation of the branches, the plain groups and `JAL`, each told by the
primary opcode of the instruction's word, and which of them keep `pc` a multiple of 4. -/

namespace Sys2Proof.Claims

open Sys2Proof.Machine

/-! ### Displacements -/

theorem wordDisplacement_eq (imm : Imm) : wordDisplacement imm = 4#32 * sext32 imm := by
  rw [wordDisplacement, BitVec.shiftLeft_eq_mul_twoPow, BitVec.mul_comm]
  rfl

/-- A sum modulo 2^32 of multiples of 4 is one. -/
theorem add_toNat_mod_four {a b : Word} (ha : a.toNat % 4 = 0) (hb : b.toNat % 4 = 0) : (a + b).toNat % 4 = 0 := by
  rw [BitVec.toNat_add]; omega

theorem wordDisplacement_mod_four (imm : Imm) : (4#32 * sext32 imm).toNat % 4 = 0 := by
  rw [BitVec.toNat_mul]
  simp only [BitVec.toNat_ofNat]
  omega

/-! ### Branches: one equation for all fourteen -/

/-- The condition a function code names, by `fn[3]` and `fn[1:0]` (43_cmp_r.md R150). -/
def condOf (fn : BitVec 4) : Cond :=
  if fn.getLsbD 3 then
    if fn.getLsbD 1 then (if fn.getLsbD 0 then .gt else .gte) else (if fn.getLsbD 0 then .ne else .t)
  else
    if fn.getLsbD 1 then (if fn.getLsbD 0 then .lte else .lt) else (if fn.getLsbD 0 then .eq else .f)

theorem condHolds_condOf (fn : BitVec 4) (a b : Word) : condHolds (condOf fn) a b = true ↔ bitCond fn a b := by
  unfold bitCond plainCond condOf
  cases fn.getLsbD 3 <;> cases fn.getLsbD 1 <;> cases fn.getLsbD 0 <;> simp [condHolds]

/-- The second comparand of a branch word: the constant zero where `fn[2]` is set, else the register of the second field
(45_branch.md R190, R191). -/
def branchComparand (s : State) (w : Word) : Word := if (fnOf w).getLsbD 2 then 0#32 else s.readReg (fbOf w)

/-- Every branch is `branchOn` of the fields of its own word. -/
theorem exec_branch {i : Instr} (h : opOf (encode i) = 0b0110#4) (s : State) :
    exec i s = branchOn (condOf (fnOf (encode i))) (s.readReg (faOf (encode i))) (branchComparand s (encode i))
      (immOf (encode i)) s := by
  cases i
  case bf | beq | blt | blte | bt | bne | bgte | bgt =>
    simp only [encode, fnOf_packI, faOf_packI, fbOf_packI, immOf_packI, branchComparand]; rfl
  case beqz | bltz | bltez | bnez | bgtez | bgtz =>
    simp only [encode, fnOf_packU, faOf_packU, immOf_packU, branchComparand]; rfl
  all_goals simp [encode] at h

/-- Where a branch ends, by the condition of its bits (45_branch.md R190). -/
theorem exec_branch_pc {i : Instr} {s t : State} (h : opOf (encode i) = 0b0110#4) (ht : exec i s = .next t) :
    (bitCond (fnOf (encode i)) (s.readReg (faOf (encode i))) (branchComparand s (encode i)) →
      t.pc = s.pc + 4#32 + 4#32 * sext32 (immOf (encode i))) ∧
    (¬ bitCond (fnOf (encode i)) (s.readReg (faOf (encode i))) (branchComparand s (encode i)) → t.pc = s.pc + 4#32) := by
  rw [exec_branch h] at ht
  obtain rfl := Host.Outcome.next.inj ht
  rw [← condHolds_condOf]
  constructor
  · intro hc
    simp [hc, branchTarget, wordDisplacement_eq]
  · intro hc
    simp [hc]

/-! ### `JAL` and the plain groups -/

/-- `JAL` is the only instruction of its primary opcode. -/
theorem eq_jal_of_op {i : Instr} (h : opOf (encode i) = 0b1011#4) : ∃ rd rs1 imm, i = .jal rd rs1 imm := by
  cases i
  case jal rd rs1 imm => exact ⟨rd, rs1, imm, rfl⟩
  all_goals simp [encode] at h

theorem exec_jal_pc {rd rs1 : RegIdx} {imm : Imm} {s t : State} (h : exec (.jal rd rs1 imm) s = .next t) :
    t.pc = s.readReg rs1 + 4#32 * sext32 imm := by
  obtain rfl := Host.Outcome.next.inj h
  rw [setPc_pc, jumpTarget, wordDisplacement_eq]

theorem memRead_pc {a v : Word} {s s' : State} (h : memRead a s = .ok (v, s')) : s'.pc = s.pc := by
  obtain ⟨-, ⟨-, -, rfl⟩ | ⟨-, -, rfl⟩ | ⟨-, -, rfl⟩⟩ := memRead_ok h <;> simp

/-- Outside BRANCH and `JAL` an instruction that completes goes on to the next word (10_state.md R25). -/
theorem exec_plain_pc {i : Instr} {s t : State} (hb : opOf (encode i) ≠ 0b0110#4) (hj : opOf (encode i) ≠ 0b1011#4)
    (h : exec i s = .next t) : t.pc = s.pc + 4#32 := by
  cases i
  case lw =>
    obtain ⟨v, s', hr, rfl⟩ := execLw_next h
    simp [memRead_pc hr]
  case sw =>
    obtain ⟨s', -, rfl⟩ := execSw_next h
    simp
  case bf | beq | blt | blte | bt | bne | bgte | bgt | beqz | bltz | bltez | bnez | bgtez | bgtz =>
    simp [encode] at hb
  case jal => simp [encode] at hj
  all_goals
    obtain rfl := Host.Outcome.next.inj h
    rfl

/-- Settles O30: one clause for each of the three groups. -/
theorem pcAfterEachGroup : Obligations.PcAfterEachGroup := by
  intro i s t ht
  refine ⟨fun hb hj => exec_plain_pc hb hj ht, fun hb => exec_branch_pc hb ht, fun hj => ?_⟩
  obtain ⟨rd, rs1, imm, rfl⟩ := eq_jal_of_op hj
  simpa [encode] using exec_jal_pc ht

/-- Settles O29: every target but `JAL`'s is the old `pc` plus multiples of 4, and `JAL`'s is its base plus one. -/
theorem onlyJalMisalignsPc : Obligations.OnlyJalMisalignsPc := by
  intro s t hs hstep ht
  obtain ⟨w, i, hf, hd, hi⟩ := step_next hstep
  have hnext : (s.pc + 4#32).toNat % 4 = 0 := add_toNat_mod_four hs (by decide)
  obtain ⟨hplain, hbranch, -⟩ := pcAfterEachGroup i s t hi
  by_cases hj : opOf (encode i) = 0b1011#4
  · obtain ⟨rd, rs1, imm, rfl⟩ := eq_jal_of_op hj
    refine ⟨w, rd, rs1, imm, hf, hd, fun hbase => ht ?_⟩
    rw [exec_jal_pc hi]
    exact add_toNat_mod_four hbase (wordDisplacement_mod_four imm)
  · refine absurd ?_ ht
    by_cases hb : opOf (encode i) = 0b0110#4
    · obtain ⟨htaken, hnot⟩ := hbranch hb
      by_cases hc : bitCond (fnOf (encode i)) (s.readReg (faOf (encode i))) (branchComparand s (encode i))
      · rw [htaken hc]
        exact add_toNat_mod_four hnext (wordDisplacement_mod_four _)
      · rw [hnot hc]
        exact hnext
    · rw [hplain hb hj]
      exact hnext

end Sys2Proof.Claims
end

section
/-! Displays and the record of outputs are written and never read (10_state.md R32, 20_memory.md R55): two machines that differ only
in them answer every access, instruction, step and run alike, and record the same new outputs. -/

namespace Sys2Proof.Claims

open Sys2Proof.Machine

/-- Two outcomes, reached from `s` and `s'`, that differ at most in what the boards show: the same stop, or next states that
differ only in that, the same events `es` having been recorded on the way. -/
inductive AlikeFrom (s s' : State) : Host.Outcome State Fault Refusal → Host.Outcome State Fault Refusal → Prop where
  | next {t t' : State} (es : List OutputEvent) (same : SameBehindBoard t t') (new : t.outputs = s.outputs ++ es)
      (new' : t'.outputs = s'.outputs ++ es) : AlikeFrom s s' (.next t) (.next t')
  | fault (f : Fault) : AlikeFrom s s' (.fault f) (.fault f)
  | refused (r : Refusal) : AlikeFrom s s' (.refused r) (.refused r)

/-- What is alike from later states is alike from the earlier ones: the events add up. -/
theorem AlikeFrom.prepend {s s' t t' : State} {es : List OutputEvent} {o o' : Host.Outcome State Fault Refusal}
    (new : t.outputs = s.outputs ++ es) (new' : t'.outputs = s'.outputs ++ es) (h : AlikeFrom t t' o o') :
    AlikeFrom s s' o o' := by
  cases h with
  | next es₁ same h₁ h₁' =>
    exact .next (es ++ es₁) same (by rw [h₁, new, List.append_assoc]) (by rw [h₁', new', List.append_assoc])
  | fault f => exact .fault f
  | refused r => exact .refused r

/-- A machine that is the same behind the board is the same machine before another board. -/
theorem exists_eq_withOutputs {s s' : State} (h : SameBehindBoard s s') : ∃ x r g os, s' = withOutputs x r g os s := by
  obtain ⟨hregs, hpc, hmem, hstored, hkey, hswitch, hkeyDraws, hswitchDraws⟩ := h
  refine ⟨s'.hex, s'.ledr, s'.ledg, s'.outputs, ?_⟩
  cases s'
  simp_all [withOutputs]

/-! ### The accesses -/

theorem memRead_outputs {a v : Word} {s t : State} (h : memRead a s = .ok (v, t)) : t.outputs = s.outputs := by
  obtain ⟨-, ⟨-, -, rfl⟩ | ⟨-, -, rfl⟩ | ⟨-, -, rfl⟩⟩ := memRead_ok h <;> simp

section
variable (x : BitVec 16) (r : BitVec 10) (g : BitVec 8) (os : List OutputEvent) (s : State)

theorem sameBehindBoard_withOutputs : SameBehindBoard s (withOutputs x r g os s) :=
  ⟨rfl, rfl, rfl, rfl, rfl, rfl, rfl, rfl⟩

@[simp] theorem withOutputs_mem : (withOutputs x r g os s).mem = s.mem := rfl

theorem drawKey_withOutputs :
    drawKey (withOutputs x r g os s) = ((drawKey s).1, withOutputs x r g os (drawKey s).2) := by
  unfold drawKey withOutputs
  cases s.keyQueue <;> rfl

theorem drawSwitch_withOutputs :
    drawSwitch (withOutputs x r g os s) = ((drawSwitch s).1, withOutputs x r g os (drawSwitch s).2) := by
  unfold drawSwitch withOutputs
  cases s.switchQueue <;> rfl

theorem effectiveAddress_withOutputs (rs1 : RegIdx) (imm : Imm) :
    effectiveAddress rs1 imm (withOutputs x r g os s) = effectiveAddress rs1 imm s := rfl

/-- A load gives the same value or fault before any board. -/
theorem memRead_withOutputs (a : Word) :
    memRead a (withOutputs x r g os s) = (memRead a s).map fun p => (p.1, withOutputs x r g os p.2) := by
  unfold memRead
  rw [drawKey_withOutputs, drawSwitch_withOutputs, withOutputs_mem]
  cases misaligned a
  case true => rfl
  case false =>
    cases regionOf a
    case ram => cases s.mem.readWord a.toNat <;> rfl
    all_goals rfl

end

/-! ### Instructions, steps, runs -/

/-- A store stops alike before any board, or puts the same value in the same place and records it. -/
theorem execSw_alike {s s' : State} (h : SameBehindBoard s s') (rs1 rs2 : RegIdx) (imm : Imm) :
    AlikeFrom s s' (execSw rs1 rs2 imm s) (execSw rs1 rs2 imm s') := by
  obtain ⟨x, r, g, os, rfl⟩ := exists_eq_withOutputs h
  unfold execSw memWrite
  rw [effectiveAddress_withOutputs]
  cases misaligned (effectiveAddress rs1 imm s)
  case true => exact .fault _
  case false =>
    cases regionOf (effectiveAddress rs1 imm s)
    case ram => exact .next [] (sameBehindBoard_withOutputs ..) (List.append_nil _).symm (List.append_nil _).symm
    case hex => exact .next [_] (sameBehindBoard_withOutputs ..) rfl rfl
    case ledr => exact .next [_] (sameBehindBoard_withOutputs ..) rfl rfl
    case ledg => exact .next [_] (sameBehindBoard_withOutputs ..) rfl rfl
    case key | switch | unmapped => exact .fault _

theorem execLw_alike {s s' : State} (h : SameBehindBoard s s') (rd rs1 : RegIdx) (imm : Imm) :
    AlikeFrom s s' (execLw rd rs1 imm s) (execLw rd rs1 imm s') := by
  obtain ⟨x, r, g, os, rfl⟩ := exists_eq_withOutputs h
  unfold execLw
  rw [effectiveAddress_withOutputs, memRead_withOutputs]
  cases hm : memRead (effectiveAddress rs1 imm s) s with
  | error f => exact .fault f
  | ok p =>
    obtain ⟨v, t⟩ := p
    exact .next [] (sameBehindBoard_withOutputs ..) (by simp [memRead_outputs hm]) (List.append_nil _).symm

/-- Every instruction acts alike before any two boards. -/
theorem exec_alike {s s' : State} (h : SameBehindBoard s s') (i : Instr) : AlikeFrom s s' (exec i s) (exec i s') := by
  cases i
  case lw rd rs1 imm => exact execLw_alike h rd rs1 imm
  case sw rs1 rs2 imm => exact execSw_alike h rs1 rs2 imm
  all_goals
    obtain ⟨x, r, g, os, rfl⟩ := exists_eq_withOutputs h
    exact .next [] (sameBehindBoard_withOutputs ..) (List.append_nil _).symm (List.append_nil _).symm

/-- A step looks at `pc`, memory and marks to fetch, and then acts as its instruction does. -/
theorem step_alike {s s' : State} (h : SameBehindBoard s s') : AlikeFrom s s' (step s) (step s') := by
  obtain ⟨-, hpc, hmem, hstored, -⟩ := id h
  have hfetch : fetch s' = fetch s := fetch_congr hpc hmem hstored
  cases hf : fetch s with
  | error f =>
    rw [step_of_fetch_error hf, step_of_fetch_error (hfetch.trans hf)]
    exact .fault f
  | ok w =>
    cases hd : decodeWord w with
    | error e =>
      rw [step_of_decode_error hf hd, step_of_decode_error (hfetch.trans hf) hd, hpc]
      exact .fault _
    | ok i =>
      rw [step_of_decode hf hd, step_of_decode (hfetch.trans hf) hd]
      exact exec_alike h i

/-- Runs of any length are alike, step by step. -/
theorem run_alike (k : Nat) {s s' : State} (h : SameBehindBoard s s') :
    AlikeFrom s s' (Sys2Proof.core.run k s) (Sys2Proof.core.run k s') := by
  induction k generalizing s s' with
  | zero => exact .next [] h (List.append_nil _).symm (List.append_nil _).symm
  | succ k ih =>
    rw [core_run_succ, core_run_succ]
    have hstep := step_alike h
    generalize step s = o, step s' = o' at hstep ⊢
    cases hstep with
    | next es same new new' => exact (ih same).prepend new new'
    | fault f => exact .fault f
    | refused r => exact .refused r

/-- Settles O41: what two runs that are alike have in common. -/
theorem displaysNeverInfluenceTheRun : Obligations.DisplaysNeverInfluenceTheRun := by
  intro k s s' h
  have hrun := run_alike k h
  generalize Sys2Proof.core.run k s = o, Sys2Proof.core.run k s' = o' at hrun ⊢
  cases hrun with
  | next es same new new' =>
    refine ⟨fun f => ⟨nofun, nofun⟩, fun t ht => ?_⟩
    obtain rfl := Host.Outcome.next.inj ht
    exact ⟨_, es, rfl, same, new, new'⟩
  | fault f => exact ⟨fun _ => Iff.rfl, nofun⟩
  | refused r => exact ⟨fun _ => Iff.rfl, nofun⟩

end Sys2Proof.Claims
end

section
/-! The four checks of a fetch (20_memory.md R45, 60_exceptions.md R263), one lemma for each way they end. -/

namespace Sys2Proof.Machine

section
variable {s : State}

theorem fetch_misaligned (h : s.pc.toNat % 4 ≠ 0) : fetch s = .error (.misalignedFetch s.pc) := by
  simp [fetch, (misaligned_iff _).mpr h]

theorem fetch_unmapped (ha : s.pc.toNat % 4 = 0) (hr : Config.ramBytes ≤ s.pc.toNat) :
    fetch s = .error (.unmappedFetch s.pc) := by
  simp [fetch, (aligned_iff _).mpr ha, hr]

theorem fetch_afterStore (ha : s.pc.toNat % 4 = 0) (hr : s.pc.toNat < Config.ramBytes)
    (hm : (s.mem.readWord s.pc.toNat).isSome) (hmark : wordIndex s.pc ∈ s.stored) :
    fetch s = .error (.fetchAfterStore s.pc) := by
  obtain ⟨w, hw⟩ := Option.isSome_iff_exists.mp hm
  simp [fetch, (aligned_iff _).mpr ha, Nat.not_le.mpr hr, hw, hmark]

end

end Sys2Proof.Machine

namespace Sys2Proof.Claims

open Sys2Proof.Machine

/-- Settles O11: one lemma of `fetch` for each clause. -/
theorem fetchChecksInOrder : Obligations.FetchChecksInOrder := by
  intro s
  refine ⟨fetch_misaligned, fetch_unmapped, fun ha hr hm => fetch_undefined ((aligned_iff _).mpr ha) hr hm, ?_⟩
  intro w ha hr hw
  refine ⟨fun hmark => fetch_afterStore ha hr (by simp [hw]) hmark, fun hmark => ?_⟩
  exact fetch_ok_iff.mpr ⟨(aligned_iff _).mpr ha, hr, hw, hmark⟩

end Sys2Proof.Claims
end

section
/-! What an instruction that completes does to RAM, the marks and the displays, said once (20_memory.md R40, R47, R50 to R52), and
what follows over steps and runs: the invariant, the marks that stay, the record that replays the displays. -/

namespace Sys2Proof.Machine

/-! ### RAM words and marks -/

/-- A word that holds a value still holds one after any aligned store. -/
theorem readWord_writeWord_isSome {m : Memory} {a b : Nat} (v : Word) (ha : a % 4 = 0) (hb : b % 4 = 0)
    (h : (m.readWord b).isSome) : ((m.writeWord a v).readWord b).isSome := by
  by_cases e : b = a
  · subst e
    simp [readWord_writeWord_same]
  · rwa [readWord_writeWord_other m a b v (by omega)]

/-- The invariant speaks of memory and the marks only. -/
theorem inv_congr {s t : State} (hm : t.mem = s.mem) (hs : t.stored = s.stored) (h : s.Inv) : t.Inv := by
  unfold State.Inv State.marksValid
  rw [hm, hs]
  exact h

/-- A store of an aligned RAM word keeps the invariant: the new mark is that of the word stored, which holds a value now. -/
theorem inv_writeRam {s : State} {a : Word} (v : Word) (ha : a.toNat % 4 = 0) (hr : a.toNat < Config.ramBytes)
    (h : s.Inv) : (writeRam a v s).Inv := by
  obtain ⟨hvalid, hsorted, hmarks⟩ := h
  refine ⟨valid_writeWord _ v ha hr hvalid, pairwise_insertMark _ hsorted, fun i hi => ?_⟩
  rcases mem_insertMark.mp hi with rfl | hi
  · refine ⟨wordIndex_lt hr, ?_⟩
    rw [four_mul_wordIndex ((aligned_iff a).mpr ha), writeRam_mem, readWord_writeWord_same]
    rfl
  · obtain ⟨hlt, hsome⟩ := hmarks i hi
    exact ⟨hlt, readWord_writeWord_isSome v ha (Nat.mul_mod_right 4 i) hsome⟩

/-! ### The effect of one instruction -/

/-- RAM, the marks, the output registers and the record of outputs are as before. -/
structure Untouched (s t : State) : Prop where
  mem : t.mem = s.mem
  stored : t.stored = s.stored
  hex : t.hex = s.hex
  ledr : t.ledr = s.ledr
  ledg : t.ledg = s.ledg
  outputs : t.outputs = s.outputs

/-- What an instruction that completes can do outside the registers, `pc` and the inputs to come: nothing, a store of an
aligned RAM word, or one store to an output register. -/
inductive StoreEffect (s t : State) : Prop where
  | untouched (h : Untouched s t)
  | ram (a v : Word) (aligned : a.toNat % 4 = 0) (inRam : a.toNat < Config.ramBytes)
      (mem : t.mem = (writeRam a v s).mem) (stored : t.stored = (writeRam a v s).stored)
      (outputs : t.outputs = s.outputs) (shown : displays t = displays s)
  | output (e : OutputEvent) (mem : t.mem = s.mem) (stored : t.stored = s.stored)
      (outputs : t.outputs = s.outputs ++ [e]) (shown : displays t = showEvent (displays s) e)

theorem Untouched.displays_eq {s t : State} (h : Untouched s t) : displays t = displays s := by
  simp [displays, h.hex, h.ledr, h.ledg]

/-- A load moves at most an input on (20_memory.md R46). -/
theorem memRead_untouched {a v : Word} {s s' : State} (h : memRead a s = .ok (v, s')) : Untouched s s' := by
  obtain ⟨-, ⟨-, -, rfl⟩ | ⟨-, -, rfl⟩ | ⟨-, -, rfl⟩⟩ := memRead_ok h <;> constructor <;> simp

/-- An instruction that completes and is no `SW` leaves RAM, the marks and the board alone (20_memory.md R40). -/
theorem exec_untouched {i : Instr} {s t : State} (hi : ∀ rs1 rs2 imm, i ≠ .sw rs1 rs2 imm) (h : exec i s = .next t) :
    Untouched s t := by
  cases i
  case sw rs1 rs2 imm => exact absurd rfl (hi rs1 rs2 imm)
  case lw rd rs1 imm =>
    obtain ⟨v, s', hr, rfl⟩ := execLw_next h
    obtain ⟨hmem, hstored, hhex, hledr, hledg, houtputs⟩ := memRead_untouched hr
    exact ⟨hmem, hstored, hhex, hledr, hledg, houtputs⟩
  all_goals
    obtain rfl := Host.Outcome.next.inj h
    exact ⟨rfl, rfl, rfl, rfl, rfl, rfl⟩

/-- The store behind a `SW` that completes. -/
theorem execSw_effect {rs1 rs2 : RegIdx} {imm : Imm} {s t : State} (h : execSw rs1 rs2 imm s = .next t) :
    StoreEffect s t := by
  obtain ⟨s', hw, rfl⟩ := execSw_next h
  obtain ⟨ha, ⟨hr, rfl⟩ | ⟨-, rfl⟩ | ⟨-, rfl⟩ | ⟨-, rfl⟩⟩ := memWrite_ok hw
  · exact .ram _ _ ((aligned_iff _).mp ha) ((regionOf_ram_iff _).mp hr) rfl rfl rfl rfl
  all_goals exact .output _ rfl rfl rfl rfl

theorem exec_effect {i : Instr} {s t : State} (h : exec i s = .next t) : StoreEffect s t := by
  cases i
  case sw => exact execSw_effect h
  all_goals exact .untouched (exec_untouched (by simp) h)

theorem step_effect {s t : State} (h : step s = .next t) : StoreEffect s t := by
  obtain ⟨_, _, -, -, hi⟩ := step_next h
  exact exec_effect hi

/-! ### Runs -/

/-- A run of one step more that answers: its first step, then the rest. -/
theorem core_run_succ_next {k : Nat} {s t : State} (h : Sys2Proof.core.run (k + 1) s = .next t) :
    ∃ u, step s = .next u ∧ Sys2Proof.core.run k u = .next t := by
  rw [core_run_succ] at h
  split at h
  · rename_i u hu
    exact ⟨u, hu, h⟩
  · cases h
  · cases h

/-- What every step keeps, every run keeps. -/
theorem core_run_keeps {P : State → Prop} (hP : ∀ s t, P s → step s = .next t → P t) {k : Nat} {s t : State}
    (hs : P s) (h : Sys2Proof.core.run k s = .next t) : P t := by
  induction k generalizing s with
  | zero => exact Host.Outcome.next.inj h ▸ hs
  | succ k ih =>
    obtain ⟨u, hu, hrun⟩ := core_run_succ_next h
    exact ih (hP s u hs hu) hrun

/-! ### Marks stay -/

/-- The RAM word at `a` is marked as stored-to and holds a value. -/
def State.MarkedAt (a : Word) (s : State) : Prop :=
  wordIndex a ∈ s.stored ∧ (s.mem.readWord a.toNat).isSome

theorem fetch_of_markedAt {a : Word} {s : State} (ha : a.toNat % 4 = 0) (hr : a.toNat < Config.ramBytes)
    (h : s.MarkedAt a) : fetch (s.setPc a) = .error (.fetchAfterStore a) := by
  obtain ⟨hmark, hsome⟩ := h
  exact fetch_afterStore (s := s.setPc a) ha hr hsome hmark

theorem markedAt_setPc_writeRam (a v p : Word) (s : State) : ((writeRam a v s).setPc p).MarkedAt a :=
  ⟨mem_insertMark.mpr (.inl rfl), by simp [readWord_writeWord_same]⟩

/-- No step clears a mark, or takes the value of a marked word away (20_memory.md R59). -/
theorem step_keeps_markedAt {a : Word} (ha : a.toNat % 4 = 0) {s t : State} (h : s.MarkedAt a)
    (hstep : step s = .next t) : t.MarkedAt a := by
  obtain ⟨hmark, hsome⟩ := h
  unfold State.MarkedAt
  cases step_effect hstep with
  | untouched h =>
    rw [h.mem, h.stored]
    exact ⟨hmark, hsome⟩
  | output e mem stored _ _ =>
    rw [mem, stored]
    exact ⟨hmark, hsome⟩
  | ram b v aligned _ mem stored _ _ =>
    rw [mem, stored]
    exact ⟨mem_insertMark.mpr (.inr hmark), readWord_writeWord_isSome v aligned ha hsome⟩

end Sys2Proof.Machine

namespace Sys2Proof.Claims

open Sys2Proof.Machine

/-- Settles O15: by the effect of the step; only a store to RAM touches what the invariant speaks of. -/
theorem stepKeepsInvariant : Obligations.StepKeepsInvariant := by
  intro s t hs hstep
  cases step_effect hstep with
  | untouched h => exact inv_congr h.mem h.stored hs
  | output e mem stored _ _ => exact inv_congr mem stored hs
  | ram a v aligned inRam mem stored _ _ => exact inv_congr mem stored (inv_writeRam v aligned inRam hs)

/-- Settles O40: by induction on the run, each step adding the event of its store or none. -/
theorem outputRecordReplaysDisplays : Obligations.OutputRecordReplaysDisplays := by
  intro k
  induction k with
  | zero =>
    intro s t h
    obtain rfl := Host.Outcome.next.inj h
    exact ⟨[], Nat.le_refl 0, (List.append_nil _).symm, rfl⟩
  | succ k ih =>
    intro s t h
    obtain ⟨u, hstep, hrun⟩ := core_run_succ_next h
    obtain ⟨es, hlen, houtputs, hshown⟩ := ih u t hrun
    have quiet (ho : u.outputs = s.outputs) (hd : displays u = displays s) :
        ∃ es, es.length ≤ k + 1 ∧ t.outputs = s.outputs ++ es ∧ displays t = es.foldl showEvent (displays s) :=
      ⟨es, Nat.le_succ_of_le hlen, ho ▸ houtputs, hd ▸ hshown⟩
    cases step_effect hstep with
    | untouched h => exact quiet h.outputs h.displays_eq
    | ram _ _ _ _ _ _ ho hd => exact quiet ho hd
    | output e _ _ ho hd =>
      refine ⟨e :: es, Nat.succ_le_succ hlen, ?_, ?_⟩
      · rw [houtputs, ho, List.append_assoc, List.singleton_append]
      · rw [hshown, hd, List.foldl_cons]

/-- Settles O37: the frame by `exec_untouched`; what is neither `LW` nor `SW` never looks at RAM or the marks. -/
theorem onlyLoadsAndStoresTouchMemory : Obligations.OnlyLoadsAndStoresTouchMemory := by
  intro i s hsw
  refine ⟨fun t ht => ?_, fun hlw m marks => ?_⟩
  · obtain ⟨hmem, hstored, hhex, hledr, hledg, houtputs⟩ := exec_untouched hsw ht
    exact ⟨hmem, fun _ => by rw [hmem], hstored, hhex, hledr, hledg, houtputs⟩
  · cases i
    case lw rd rs1 imm => exact absurd rfl (hlw rd rs1 imm)
    case sw rs1 rs2 imm => exact absurd rfl (hsw rs1 rs2 imm)
    all_goals rfl

end Sys2Proof.Claims
end

section
/-! `LW` and `SW` from their access (42_load_store.md R140 to R142): each one's outcome once `memRead` or `memWrite` is known, and
from it every case of the two, the two inputs and the three displays. -/

namespace Sys2Proof.Claims

open Sys2Proof.Machine

/-! ### Words of primary opcodes 1001 and 0101 -/

/-- The word of the statements is the format I word of its fields. -/
theorem wordI_eq_packI (fa fb : RegIdx) (imm : Imm) {fn : Nat} (hfn : fn < 16) (op : BitVec 4) :
    wordI fa fb imm (fn * 2 ^ 4 + op.toNat) = packI fa fb imm (BitVec.ofNat 4 fn) op := by
  apply BitVec.eq_of_toNat_eq
  rw [packI_toNat, wordI, BitVec.toNat_ofNat, BitVec.toNat_ofNat]
  omega

theorem decodeWord_lw (rd rs1 : RegIdx) (imm : Imm) : decodeWord (wordI rd rs1 imm 0x09) = .ok (.lw rd rs1 imm) := by
  have hword : wordI rd rs1 imm 0x09 = packI rd rs1 imm 0#4 0b1001#4 :=
    wordI_eq_packI rd rs1 imm (fn := 0) (by decide) 0b1001#4
  rw [hword]
  simp [decodeWord, orUnassigned]

theorem decodeWord_sw (rs1 rs2 : RegIdx) (imm : Imm) :
    decodeWord (wordI rs1 rs2 imm 0x05) = .ok (.sw rs1 rs2 imm) := by
  have hword : wordI rs1 rs2 imm 0x05 = packI rs1 rs2 imm 0#4 0b0101#4 :=
    wordI_eq_packI rs1 rs2 imm (fn := 0) (by decide) 0b0101#4
  rw [hword]
  simp [decodeWord, orUnassigned]

/-- Under the primary opcodes of `LW`, `SW` and `JAL` only function code 0 is assigned (30_encoding.md R85 point 3). -/
theorem decodeWord_function_unassigned {fa fb : RegIdx} {imm : Imm} {fn op : BitVec 4}
    (hop : op = 0b1001#4 ∨ op = 0b0101#4 ∨ op = 0b1011#4) (hfn : fn ≠ 0#4) :
    decodeWord (packI fa fb imm fn op) = .error (.unassignedFunction op fn) := by
  rcases hop with rfl | rfl | rfl <;> simp [decodeWord, orUnassigned, hfn]

theorem step_function_illegal {fa fb : RegIdx} {imm : Imm} {s : State} {fn : Nat} {op : BitVec 4}
    (hop : op = 0b1001#4 ∨ op = 0b0101#4 ∨ op = 0b1011#4) (h0 : 0 < fn) (h16 : fn < 16)
    (hf : fetch s = .ok (wordI fa fb imm (fn * 2 ^ 4 + op.toNat))) :
    step s = .fault (.illegalInstruction s.pc (wordI fa fb imm (fn * 2 ^ 4 + op.toNat))) := by
  have hfn : BitVec.ofNat 4 fn ≠ 0#4 := by
    rw [ne_eq, ← BitVec.toNat_inj, BitVec.toNat_ofNat, BitVec.toNat_ofNat]
    omega
  have hd := decodeWord_function_unassigned (fa := fa) (fb := fb) (imm := imm) hop hfn
  rw [← wordI_eq_packI fa fb imm h16] at hd
  exact step_of_decode_error hf hd

/-! ### `LW` from its load -/

/-- Writing one register and `pc` writes nothing else. -/
theorem writesOnly_writeReg_setPc (s : State) (rd : RegIdx) (v p : Word) :
    WritesOnly s ((s.writeReg rd v).setPc p) rd v p :=
  ⟨by simp, fun r hr => readReg_writeReg_other s rd r v hr, rfl,
    fun _ => rfl, rfl, rfl, rfl, rfl, rfl, rfl, rfl, rfl, rfl, rfl⟩

section
variable {rd rs1 rs2 : RegIdx} {imm : Imm} {s s' : State} {v : Word} {f : Fault}

theorem exec_lw_of_ok (h : memRead (s.readReg rs1 + sext32 imm) s = .ok (v, s')) :
    exec (.lw rd rs1 imm) s = .next ((s'.writeReg rd v).setPc (s.pc + 4#32)) := by
  simp [exec, execLw, effectiveAddress, h, retire, memRead_pc h]

theorem exec_lw_of_error (h : memRead (s.readReg rs1 + sext32 imm) s = .error f) :
    exec (.lw rd rs1 imm) s = .fault f := by
  simp [exec, execLw, effectiveAddress, h, raise]

theorem exec_sw_of_ok (h : memWrite (s.readReg rs1 + sext32 imm) (s.readReg rs2) s = .ok s') :
    exec (.sw rs1 rs2 imm) s = .next (s'.setPc (s.pc + 4#32)) := by
  simp [exec, execSw, effectiveAddress, h]

theorem exec_sw_of_error (h : memWrite (s.readReg rs1 + sext32 imm) (s.readReg rs2) s = .error f) :
    exec (.sw rs1 rs2 imm) s = .fault f := by
  simp [exec, execSw, effectiveAddress, h, raise]

/-- A load of a RAM word that holds a value (42_load_store.md R141). -/
theorem yields_lw_ram (ha : (s.readReg rs1 + sext32 imm).toNat % 4 = 0)
    (hr : (s.readReg rs1 + sext32 imm).toNat < Config.ramBytes)
    (hv : s.mem.readWord (s.readReg rs1 + sext32 imm).toNat = some v) :
    Yields (.lw rd rs1 imm) s rd v (s.pc + 4#32) :=
  ⟨_, exec_lw_of_ok (memRead_ram ha hr hv), writesOnly_writeReg_setPc s rd v _⟩

theorem memRead_regs {a : Word} (h : memRead a s = .ok (v, s')) : s'.regs = s.regs := by
  obtain ⟨-, ⟨-, -, rfl⟩ | ⟨-, -, rfl⟩ | ⟨-, -, rfl⟩⟩ := memRead_ok h <;> simp

/-- A load whose value is a sample of `n` bits. -/
theorem loadsInput_of_ok {n : Nat} {k : BitVec n}
    (h : memRead (s.readReg rs1 + sext32 imm) s = .ok (k.setWidth 32, s')) : LoadsInput n (.lw rd rs1 imm) s rd := by
  obtain ⟨hmem, hstored, hhex, hledr, hledg, houtputs⟩ := memRead_untouched h
  refine ⟨_, k, exec_lw_of_ok h, by simp, fun x hx => ?_, rfl, fun a => by simp [hmem], hmem, hstored, hhex, hledr,
    hledg, houtputs⟩
  rw [readReg_setPc, readReg_writeReg_other _ _ _ _ hx, readReg_congr (memRead_regs h)]

end

/-- Settles O31: one case of `memRead` for each clause. -/
theorem loadWordInEveryCase : Obligations.LoadWordInEveryCase := by
  rintro rd rs1 imm s ea rfl
  exact ⟨decodeWord_lw rd rs1 imm,
    fun ha => exec_lw_of_error (memRead_misaligned ha),
    fun v ha hr hv => yields_lw_ram ha hr hv,
    fun ha hr hv => exec_lw_of_error (memRead_undefined ha hr hv),
    fun hk => loadsInput_of_ok (memRead_key hk),
    fun hs => loadsInput_of_ok (memRead_switch hs),
    fun ha hr hk hs => exec_lw_of_error (memRead_unmapped ha hr hk hs),
    fun fn h0 h16 hf => step_function_illegal (op := 0b1001#4) (.inl rfl) h0 h16 hf⟩

/-! ### The two inputs -/

theorem drawKey_of_keyQueue {s : State} {k : BitVec 4} {rest : List (BitVec 4)} (h : s.keyQueue = k :: rest) :
    drawKey s = (k, setKeyInputs rest s) := by
  simp [drawKey, h, setKeyInputs]

theorem drawSwitch_of_switchQueue {s : State} {k : BitVec 10} {rest : List (BitVec 10)}
    (h : s.switchQueue = k :: rest) : drawSwitch s = (k, setSwitchInputs rest s) := by
  simp [drawSwitch, h, setSwitchInputs]

/-- A `KEY` load with inputs written out: `rd` holds the first, and the others are still to come. -/
theorem exec_lw_keyQueue {rd rs1 : RegIdx} {imm : Imm} {s : State} {k : BitVec 4} {rest : List (BitVec 4)}
    (ha : s.readReg rs1 + sext32 imm = 0xF0000010#32) (hq : s.keyQueue = k :: rest) :
    ∃ t, exec (.lw rd rs1 imm) s = .next t ∧ t.readReg rd = k.setWidth 32 ∧ t.keyQueue = rest := by
  refine ⟨_, exec_lw_of_ok (memRead_key ha), ?_, ?_⟩ <;> simp [drawKey_of_keyQueue hq]

/-- Settles O32: the value is a sample of four bits, the next of the queue where the queue holds one. -/
theorem keyLoads : Obligations.KeyLoads := by
  intro rd rs1 imm s ha
  refine ⟨?_, ?_, by decide, by decide, by decide⟩
  · refine ⟨_, exec_lw_of_ok (memRead_key ha), ?_, rfl, fun r hr => ?_, ?_⟩
    · have := (drawKey s).1.isLt
      rw [readReg_setPc, readReg_writeReg_same, BitVec.toNat_setWidth_of_le (by decide)]
      omega
    · simp [readReg_writeReg_other _ _ _ _ hr]
    · simp
  · intro k k' rest
    obtain ⟨t, ht, hv, hq⟩ := exec_lw_keyQueue (rd := rd) (s := setKeyInputs (k :: k' :: rest) s) ha rfl
    refine ⟨t, ht, by rw [hv, BitVec.toNat_setWidth_of_le (by decide)], fun rd' rs1' imm' ha' => ?_⟩
    obtain ⟨u, hu, hv', -⟩ := exec_lw_keyQueue (rd := rd') ha' hq
    exact ⟨u, hu, by rw [hv', BitVec.toNat_setWidth_of_le (by decide)]⟩

/-- Settles O33: the value is a sample of ten bits, the next of the queue where the queue holds one. -/
theorem switchLoads : Obligations.SwitchLoads := by
  intro rd rs1 imm s ha
  refine ⟨⟨_, exec_lw_of_ok (memRead_switch ha), ?_, rfl, fun r hr => ?_, ?_⟩, fun k rest => ?_⟩
  · have := (drawSwitch s).1.isLt
    rw [readReg_setPc, readReg_writeReg_same, BitVec.toNat_setWidth_of_le (by decide)]
    omega
  · simp [readReg_writeReg_other _ _ _ _ hr]
  · simp
  · refine ⟨_, exec_lw_of_ok (s := setSwitchInputs (k :: rest) s) (memRead_switch ha), ?_⟩
    rw [drawSwitch_of_switchQueue rfl, readReg_setPc, readReg_writeReg_same]
    apply BitVec.eq_of_toNat_eq
    rw [append_toNat, BitVec.toNat_setWidth_of_le (by decide)]
    simp

/-! ### `SW` from its store -/

/-- Byte `k` of a stored word (20_memory.md R43). -/
theorem readByte_writeWord_byte (m : Memory) (a : Nat) (v : Word) {k : Nat} (hk : k < 4) :
    (m.writeWord a v).readByte (a + k) = some (v.extractLsb' (8 * k) 8) := by
  rw [writeWord_eq]
  obtain rfl | rfl | rfl | rfl : k = 0 ∨ k = 1 ∨ k = 2 ∨ k = 3 := by omega
  all_goals simp [readByte_writeByte]

/-- A store to an output register, which leaves the machine as it was before another board. -/
theorem shows_of_ok {rs1 rs2 : RegIdx} {imm : Imm} {s : State} {h : BitVec 16} {r : BitVec 10} {g : BitVec 8}
    {os : List OutputEvent}
    (hw : memWrite (s.readReg rs1 + sext32 imm) (s.readReg rs2) s = .ok (withOutputs h r g os s)) :
    Shows (.sw rs1 rs2 imm) s h r g :=
  ⟨_, exec_sw_of_ok hw, rfl, rfl, rfl, fun _ => rfl, rfl, fun _ => rfl, rfl, rfl, rfl, rfl, rfl, rfl⟩

/-- Settles O34: one case of `memWrite` for each clause. -/
theorem storeWordInEveryCase : Obligations.StoreWordInEveryCase := by
  rintro rs1 rs2 imm s ea v rfl rfl
  refine ⟨decodeWord_sw rs1 rs2 imm,
    fun ha => exec_sw_of_error (memWrite_misaligned ha),
    fun ha hr => ?_,
    fun hh => shows_of_ok (memWrite_hex hh),
    fun hr => shows_of_ok (memWrite_ledr hr),
    fun hg => shows_of_ok (memWrite_ledg hg),
    fun ha hr hh hl hg => exec_sw_of_error (memWrite_unmapped ha hr hh hl hg),
    fun fn h0 h16 hf => step_function_illegal (op := 0b0101#4) (.inr (.inl rfl)) h0 h16 hf⟩
  exact ⟨_, exec_sw_of_ok (memWrite_ram ha hr),
    readWord_writeWord_same _ _ _,
    fun _ hk => readByte_writeWord_byte _ _ _ hk,
    fun a h => readByte_writeWord_other _ _ a _ h,
    fun _ => mem_insertMark,
    fun _ => rfl, rfl, rfl, rfl, rfl, rfl, rfl, rfl, rfl, rfl⟩

/-- Settles O35: the load reads the word just written. -/
theorem storeThenLoadReturnsValue : Obligations.StoreThenLoadReturnsValue := by
  intro rs1 rs2 imm s ha hr
  refine ⟨_, exec_sw_of_ok (memWrite_ram ha hr), fun rd rb imm' he => ?_⟩
  apply yields_lw_ram
  · rwa [he]
  · rwa [he]
  · rw [he]
    exact readWord_writeWord_same _ _ _

/-- Settles O36: the mark and the value it stands on are there after the store, and every step keeps both. -/
theorem storedWordIsNeverFetched : Obligations.StoredWordIsNeverFetched := by
  rintro rs1 rs2 imm s ea rfl ha hr
  refine ⟨_, exec_sw_of_ok (memWrite_ram ha hr), fun k u hrun => fetch_of_markedAt ha hr ?_⟩
  exact core_run_keeps (fun _ _ => step_keeps_markedAt ha) (markedAt_setPc_writeRam _ _ _ s) hrun

/-! ### The three displays -/

/-- Which address a store that changed a display went to. -/
theorem execSw_display_changed {rs1 rs2 : RegIdx} {imm : Imm} {s t : State} (h : execSw rs1 rs2 imm s = .next t) :
    (t.hex ≠ s.hex → s.readReg rs1 + sext32 imm = 0xF0000000#32) ∧
    (t.ledr ≠ s.ledr → s.readReg rs1 + sext32 imm = 0xF0000004#32) ∧
    (t.ledg ≠ s.ledg → s.readReg rs1 + sext32 imm = 0xF0000008#32) := by
  obtain ⟨s', hw, rfl⟩ := execSw_next h
  obtain ⟨-, ⟨-, rfl⟩ | ⟨ha, rfl⟩ | ⟨ha, rfl⟩ | ⟨ha, rfl⟩⟩ := memWrite_ok hw
  · exact ⟨absurd rfl, absurd rfl, absurd rfl⟩
  · exact ⟨fun _ => (regionOf_hex_iff _).mp ha, absurd rfl, absurd rfl⟩
  · exact ⟨absurd rfl, fun _ => (regionOf_ledr_iff _).mp ha, absurd rfl⟩
  · exact ⟨absurd rfl, absurd rfl, fun _ => (regionOf_ledg_iff _).mp ha⟩

/-- Settles O39: what each of the three stores shows and records, and that no other instruction touches a display. -/
theorem outputStoresShowOnTheBoard : Obligations.OutputStoresShowOnTheBoard := by
  constructor
  · rintro rs1 rs2 imm s v rfl
    refine ⟨fun ha => ?_, fun ha => ?_, fun ha => ?_⟩
    · refine ⟨_, exec_sw_of_ok (memWrite_hex ha), rfl, rfl, ?_⟩
      simp [hexDigits]
    · exact ⟨_, exec_sw_of_ok (memWrite_ledr ha), rfl, rfl, fun k => by simp [redLit]⟩
    · exact ⟨_, exec_sw_of_ok (memWrite_ledg ha), rfl, rfl, fun k => by simp [greenLit]⟩
  · intro i s t h
    by_cases hi : ∃ rs1 rs2 imm, i = .sw rs1 rs2 imm
    · obtain ⟨rs1, rs2, imm, rfl⟩ := hi
      obtain ⟨hhex, hledr, hledg⟩ := execSw_display_changed h
      exact ⟨fun c => ⟨rs1, rs2, imm, rfl, hhex c⟩, fun c => ⟨rs1, rs2, imm, rfl, hledr c⟩,
        fun c => ⟨rs1, rs2, imm, rfl, hledg c⟩⟩
    · have same := exec_untouched (fun rs1 rs2 imm e => hi ⟨rs1, rs2, imm, e⟩) h
      exact ⟨absurd same.hex, absurd same.ledr, absurd same.ledg⟩

end Sys2Proof.Claims
end

section
/-! Decoding, said once (30_encoding.md R87): the ways a word is an instruction, and from them that decoding and encoding undo
each other (R80). -/

namespace Sys2Proof

/-- The ways a word is the word of an instruction, one for each place the decoder finds one (30_encoding.md R81 to R84). -/
inductive DecodesAs (w : Word) (i : Instr) : Prop where
  | aluR (op : opOf w = 0b0000#4) (filler : z12Of w = 0#12)
      (code : aluRInstr (fnOf w) (faOf w) (fbOf w) (fcOf w) = some i)
  | cmpR (op : opOf w = 0b0010#4) (filler : z12Of w = 0#12)
      (code : cmpRInstr (fnOf w) (faOf w) (fbOf w) (fcOf w) = some i)
  | mvhi (op : opOf w = 0b1000#4) (fn : fnOf w = 0b1011#4) (slot : fbOf w = 0) (code : .mvhi (faOf w) (immOf w) = i)
  | aluI (op : opOf w = 0b1000#4) (code : aluIInstr (fnOf w) (faOf w) (fbOf w) (immOf w) = some i)
  | cmpI (op : opOf w = 0b1010#4) (code : cmpIInstr (fnOf w) (faOf w) (fbOf w) (immOf w) = some i)
  | lw (op : opOf w = 0b1001#4) (fn : fnOf w = 0b0000#4) (code : .lw (faOf w) (fbOf w) (immOf w) = i)
  | sw (op : opOf w = 0b0101#4) (fn : fnOf w = 0b0000#4) (code : .sw (faOf w) (fbOf w) (immOf w) = i)
  | branch (op : opOf w = 0b0110#4) (fn2 : (fnOf w).getLsbD 2 = false)
      (code : branchInstr (fnOf w) (faOf w) (fbOf w) (immOf w) = some i)
  | branchZ (op : opOf w = 0b0110#4) (fn2 : (fnOf w).getLsbD 2 = true) (slot : fbOf w = 0)
      (code : branchZInstr (fnOf w) (faOf w) (immOf w) = some i)
  | jal (op : opOf w = 0b1011#4) (fn : fnOf w = 0b0000#4) (code : .jal (faOf w) (fbOf w) (immOf w) = i)

/-- `MVHI`'s function code is none of the other ALU-I codes. -/
theorem ne_mvhi_of_aluIInstr {fn : BitVec 4} {rd rs1 : RegIdx} {imm : Imm} {i : Instr}
    (h : aluIInstr fn rd rs1 imm = some i) : fn ≠ 0b1011#4 := by
  rintro rfl
  cases h

theorem decodeWord_ok_iff {w : Word} {i : Instr} : decodeWord w = .ok i ↔ DecodesAs w i := by
  constructor
  · intro h
    unfold decodeWord at h
    split at h
    next op =>
      obtain ⟨filler, h⟩ := requireFiller_ok.mp h
      exact .aluR op filler (orUnassigned_ok.mp h)
    split at h
    next op =>
      obtain ⟨filler, h⟩ := requireFiller_ok.mp h
      exact .cmpR op filler (orUnassigned_ok.mp h)
    split at h
    next op =>
      split at h
      next fn =>
        obtain ⟨slot, h⟩ := requireSlot_ok.mp h
        exact .mvhi op fn slot (Except.ok.inj h)
      next => exact .aluI op (orUnassigned_ok.mp h)
    split at h
    next op => exact .cmpI op (orUnassigned_ok.mp h)
    split at h
    next op =>
      obtain ⟨fn, code⟩ := Option.ite_none_right_eq_some.mp (orUnassigned_ok.mp h)
      exact .lw op fn (Option.some.inj code)
    split at h
    next op =>
      obtain ⟨fn, code⟩ := Option.ite_none_right_eq_some.mp (orUnassigned_ok.mp h)
      exact .sw op fn (Option.some.inj code)
    split at h
    next op =>
      split at h
      next fn2 => exact .branch op fn2 (orUnassigned_ok.mp h)
      next fn2 =>
        split at h
        next j hj =>
          obtain ⟨slot, h⟩ := requireSlot_ok.mp h
          exact .branchZ op (by simpa using fn2) slot (hj.trans (congrArg some (Except.ok.inj h)))
        next => cases h
    split at h
    next op =>
      obtain ⟨fn, code⟩ := Option.ite_none_right_eq_some.mp (orUnassigned_ok.mp h)
      exact .jal op fn (Option.some.inj code)
    cases h
  · rintro (⟨op, filler, code⟩ | ⟨op, filler, code⟩ | ⟨op, fn, slot, code⟩ | ⟨op, code⟩ | ⟨op, code⟩ | ⟨op, fn, code⟩ |
      ⟨op, fn, code⟩ | ⟨op, fn2, code⟩ | ⟨op, fn2, slot, code⟩ | ⟨op, fn, code⟩)
    case aluI =>
      simp [decodeWord, op, ne_mvhi_of_aluIInstr code, orUnassigned, code]
    all_goals simp [decodeWord, *, requireFiller, requireSlot, orUnassigned, -BitVec.getLsbD_eq_getElem]

/-! ### The word of an instruction found in a table -/

section
variable {fn : BitVec 4} {fa fb fc : RegIdx} {imm : Imm} {i : Instr}

theorem encode_of_aluRInstr (h : aluRInstr fn fa fb fc = some i) : encode i = packR fa fb fc fn 0b0000#4 := by
  unfold aluRInstr at h
  split_ifs at h 
  all_goals (obtain rfl := Option.some.inj h; simp only [encode, *])

theorem encode_of_cmpRInstr (h : cmpRInstr fn fa fb fc = some i) : encode i = packR fa fb fc fn 0b0010#4 := by
  unfold cmpRInstr at h
  split_ifs at h
  all_goals (obtain rfl := Option.some.inj h; simp only [encode, *])

theorem encode_of_aluIInstr (h : aluIInstr fn fa fb imm = some i) : encode i = packI fa fb imm fn 0b1000#4 := by
  unfold aluIInstr at h
  split_ifs at h
  all_goals (obtain rfl := Option.some.inj h; simp only [encode, *])

theorem encode_of_cmpIInstr (h : cmpIInstr fn fa fb imm = some i) : encode i = packI fa fb imm fn 0b1010#4 := by
  unfold cmpIInstr at h
  split_ifs at h
  all_goals (obtain rfl := Option.some.inj h; simp only [encode, *])

theorem encode_of_branchInstr (h : branchInstr fn fa fb imm = some i) : encode i = packI fa fb imm fn 0b0110#4 := by
  unfold branchInstr at h
  split_ifs at h
  all_goals (obtain rfl := Option.some.inj h; simp only [encode, *])

theorem encode_of_branchZInstr (h : branchZInstr fn fa imm = some i) : encode i = packU fa imm fn 0b0110#4 := by
  unfold branchZInstr at h
  split_ifs at h
  all_goals (obtain rfl := Option.some.inj h; simp only [encode, *])

end

/-! ### Decoding and encoding undo each other -/

theorem encode_of_decodesAs {w : Word} {i : Instr} (h : DecodesAs w i) : encode i = w := by
  cases h with
  | aluR op filler code => rw [encode_of_aluRInstr code, ← op, packR_fields w filler]
  | cmpR op filler code => rw [encode_of_cmpRInstr code, ← op, packR_fields w filler]
  | mvhi op fn slot code => rw [← code, encode, ← op, ← fn, packU_fields w slot]
  | aluI op code => rw [encode_of_aluIInstr code, ← op, packI_fields]
  | cmpI op code => rw [encode_of_cmpIInstr code, ← op, packI_fields]
  | lw op fn code | sw op fn code | jal op fn code => rw [← code, encode, ← op, ← fn, packI_fields]
  | branch op fn2 code => rw [encode_of_branchInstr code, ← op, packI_fields]
  | branchZ op fn2 slot code => rw [encode_of_branchZInstr code, ← op, packU_fields w slot]

theorem decodesAs_encode (i : Instr) : DecodesAs (encode i) i := by
  cases i
  case add | sub | and | or | xor | nand | nor | xnor =>
    exact .aluR (by simp [encode]) (by simp [encode]) (by simp [encode, aluRInstr])
  case f | eq | lt | lte | t | ne | gte | gt =>
    exact .cmpR (by simp [encode]) (by simp [encode]) (by simp [encode, cmpRInstr])
  case mvhi => exact .mvhi (by simp [encode]) (by simp [encode]) (by simp [encode]) (by simp [encode])
  case addi | subi | andi | ori | xori | nandi | nori | xnori =>
    exact .aluI (by simp [encode]) (by simp [encode, aluIInstr])
  case fi | eqi | lti | ltei | ti | nei | gtei | gti => exact .cmpI (by simp [encode]) (by simp [encode, cmpIInstr])
  case lw => exact .lw (by simp [encode]) (by simp [encode]) (by simp [encode])
  case sw => exact .sw (by simp [encode]) (by simp [encode]) (by simp [encode])
  case bf | beq | blt | blte | bt | bne | bgte | bgt =>
    exact .branch (by simp [encode]) (by simp [encode]) (by simp [encode, branchInstr])
  case beqz | bltz | bltez | bnez | bgtez | bgtz =>
    exact .branchZ (by simp [encode]) (by simp [encode]) (by simp [encode]) (by simp [encode, branchZInstr])
  case jal => exact .jal (by simp [encode]) (by simp [encode]) (by simp [encode])

theorem decodeWord_encode (i : Instr) : decodeWord (encode i) = .ok i :=
  decodeWord_ok_iff.mpr (decodesAs_encode i)

theorem encode_of_decodeWord {w : Word} {i : Instr} (h : decodeWord w = .ok i) : encode i = w :=
  encode_of_decodesAs (decodeWord_ok_iff.mp h)

/-- The four bytes of a word decode as the word does, with nothing left over. -/
theorem decodeBytes_bytesOfWord {w : Word} {i : Instr} (h : decodeWord w = .ok i) :
    decodeBytes (bytesOfWord w) = .ok (i, []) := by
  simp [decodeBytes, bytesOfWord, Machine.wordOfBytes_bytesOfWord, h]

end Sys2Proof

namespace Sys2Proof.Claims

/-- Settles O2: the word stands in the table its instruction was taken from, and its bytes put together are the word. -/
theorem encodeThenDecodeGivesBack : Obligations.EncodeThenDecodeGivesBack := fun i =>
  ⟨decodeWord_encode i, decodeBytes_bytesOfWord (decodeWord_encode i)⟩

/-- Settles O3: every field of a decoded word is in its instruction or fixed by its table. -/
theorem decodedWordsEncodeBack : Obligations.DecodedWordsEncodeBack := fun _ _ =>
  encode_of_decodeWord

end Sys2Proof.Claims
end

section
/-! Illegal words (30_encoding.md R85): the unassigned codes of each table, that the words of R85's five points are exactly those
that are no instruction's, and what a step makes of an illegal word and of a legal branch word. -/

namespace Sys2Proof

/-! ### Unassigned function codes -/

/-- A four-bit code is one of the sixteen. -/
theorem code_cases (c : BitVec 4) :
    c ∈ [0b0000#4, 0b0001#4, 0b0010#4, 0b0011#4, 0b0100#4, 0b0101#4, 0b0110#4, 0b0111#4, 0b1000#4, 0b1001#4, 0b1010#4,
      0b1011#4, 0b1100#4, 0b1101#4, 0b1110#4, 0b1111#4] := by
  revert c; decide

section
variable {fn : BitVec 4} {fa fb fc : RegIdx} {imm : Imm}

theorem aluRInstr_eq_none : aluRInstr fn fa fb fc = none ↔
    fn ∈ [0b0010#4, 0b0011#4, 0b0111#4, 0b1000#4, 0b1001#4, 0b1010#4, 0b1011#4, 0b1111#4] := by
  have h := code_cases fn
  fin_cases h <;> simp [aluRInstr]

theorem cmpRInstr_eq_none : cmpRInstr fn fa fb fc = none ↔
    fn ∈ [0b0100#4, 0b0101#4, 0b0110#4, 0b0111#4, 0b1100#4, 0b1101#4, 0b1110#4, 0b1111#4] := by
  have h := code_cases fn
  fin_cases h <;> simp [cmpRInstr]

/-- Code 1011 is `MVHI`'s, which has a format of its own. -/
theorem aluIInstr_eq_none (hfn : fn ≠ 0b1011#4) : aluIInstr fn fa fb imm = none ↔
    fn ∈ [0b0010#4, 0b0011#4, 0b0111#4, 0b1000#4, 0b1001#4, 0b1010#4, 0b1111#4] := by
  have h := code_cases fn
  fin_cases h <;> simp [aluIInstr] at hfn ⊢

theorem cmpIInstr_eq_none : cmpIInstr fn fa fb imm = none ↔
    fn ∈ [0b0100#4, 0b0101#4, 0b0110#4, 0b0111#4, 0b1100#4, 0b1101#4, 0b1110#4, 0b1111#4] := by
  have h := code_cases fn
  fin_cases h <;> simp [cmpIInstr]

theorem branchInstr_ne_none (hfn : fn.getLsbD 2 = false) : branchInstr fn fa fb imm ≠ none := by
  have h := code_cases fn
  fin_cases h <;> simp [branchInstr] at hfn ⊢

theorem branchZInstr_eq_none (hfn : fn.getLsbD 2 = true) : branchZInstr fn fa imm = none ↔ fn ∈ [0b0100#4, 0b1100#4] := by
  have h := code_cases fn
  fin_cases h <;> simp [branchZInstr] at hfn ⊢

end

/-! ### The legal words -/

open Claims

theorem not_outsideTable_of_decodesAs {w : Word} {i : Instr} (h : DecodesAs w i) : ¬ OutsideTable w := by
  have assigned {o : Option Instr} (code : o = some i) : o ≠ none := by simp [code]
  cases h with
  | aluR op filler code =>
    have hfn := mt aluRInstr_eq_none.mpr (assigned code)
    simp [OutsideTable, op, filler, hfn]
  | cmpR op filler code =>
    have hfn := mt cmpRInstr_eq_none.mpr (assigned code)
    simp [OutsideTable, op, filler, hfn]
  | mvhi op fn slot code => simp [OutsideTable, op, fn, slot]
  | aluI op code =>
    have hmvhi := ne_mvhi_of_aluIInstr code
    have hfn := mt (aluIInstr_eq_none hmvhi).mpr (assigned code)
    simp [OutsideTable, op, hmvhi, hfn]
  | cmpI op code =>
    have hfn := mt cmpIInstr_eq_none.mpr (assigned code)
    simp [OutsideTable, op, hfn]
  | lw op fn code | sw op fn code | jal op fn code => simp [OutsideTable, op, fn]
  | branch op fn2 code =>
    have hfn : fnOf w ∉ [0b0100#4, 0b1100#4] := fun h => by
      rcases List.mem_pair.mp h with e | e <;> simp [e] at fn2
    simp [OutsideTable, op, fn2, hfn, -BitVec.getLsbD_eq_getElem]
  | branchZ op fn2 slot code =>
    have hfn := mt (branchZInstr_eq_none fn2).mpr (assigned code)
    simp [OutsideTable, op, slot, hfn]

/-- The eight primary opcodes in use (30_encoding.md R79). -/
theorem opcode_assigned {op : BitVec 4}
    (h : op ∉ [0b0001#4, 0b0011#4, 0b0100#4, 0b0111#4, 0b1100#4, 0b1101#4, 0b1110#4, 0b1111#4]) :
    op ∈ [0b0000#4, 0b0010#4, 0b0101#4, 0b0110#4, 0b1000#4, 0b1001#4, 0b1010#4, 0b1011#4] := by
  revert op; decide

theorem exists_decodesAs_of_not_outsideTable {w : Word} (h : ¬ OutsideTable w) : ∃ i, DecodesAs w i := by
  have assigned {o : Option Instr} (ho : o ≠ none) : ∃ i, o = some i := Option.ne_none_iff_exists'.mp ho
  simp only [OutsideTable, not_or, not_and, not_not] at h
  obtain ⟨opcode, aluR, aluI, cmp, branchZ, fn, filler, slot⟩ := h
  have hop := opcode_assigned opcode
  simp only [List.mem_cons, List.not_mem_nil, or_false] at hop
  rcases hop with op | op | op | op | op | op | op | op
  · obtain ⟨i, code⟩ := assigned (mt aluRInstr_eq_none.mp (aluR op))
    exact ⟨i, .aluR op (filler (.inl op)) code⟩
  · obtain ⟨i, code⟩ := assigned (mt cmpRInstr_eq_none.mp (cmp (.inl op)))
    exact ⟨i, .cmpR op (filler (.inr op)) code⟩
  · exact ⟨_, .sw op (fn (.inr (.inl op))) rfl⟩
  · cases fn2 : (fnOf w).getLsbD 2
    · obtain ⟨i, code⟩ := assigned (branchInstr_ne_none fn2)
      exact ⟨i, .branch op fn2 code⟩
    · obtain ⟨i, code⟩ := assigned (mt (branchZInstr_eq_none fn2).mp (branchZ op))
      exact ⟨i, .branchZ op fn2 (slot (.inr ⟨op, fn2⟩)) code⟩
  · by_cases hmvhi : fnOf w = 0b1011#4
    · exact ⟨_, .mvhi op hmvhi (slot (.inl ⟨op, hmvhi⟩)) rfl⟩
    · obtain ⟨i, code⟩ := assigned (mt (aluIInstr_eq_none hmvhi).mp (aluI op))
      exact ⟨i, .aluI op code⟩
  · exact ⟨_, .lw op (fn (.inl op)) rfl⟩
  · obtain ⟨i, code⟩ := assigned (mt cmpIInstr_eq_none.mp (cmp (.inr op)))
    exact ⟨i, .cmpI op code⟩
  · exact ⟨_, .jal op (fn (.inr (.inr op))) rfl⟩

/-- The words of R85's five points are those that are no instruction's. -/
theorem outsideTable_iff {w : Word} : OutsideTable w ↔ ∀ i, decodeWord w ≠ .ok i := by
  constructor
  · intro h i hd
    exact not_outsideTable_of_decodesAs (decodeWord_ok_iff.mp hd) h
  · intro h
    by_contra hout
    obtain ⟨i, hi⟩ := exists_decodesAs_of_not_outsideTable hout
    exact h i (decodeWord_ok_iff.mpr hi)

end Sys2Proof

namespace Sys2Proof.Claims

open Sys2Proof.Machine

/-! ### The fault in a step -/

theorem memRead_ne_illegalInstruction (a : Word) (s : State) (p w : Word) :
    memRead a s ≠ .error (.illegalInstruction p w) := by
  unfold memRead
  repeat' split
  all_goals simp

theorem memWrite_ne_illegalInstruction (a v : Word) (s : State) (p w : Word) :
    memWrite a v s ≠ .error (.illegalInstruction p w) := by
  unfold memWrite
  repeat' split
  all_goals simp

/-- Only a step's decoding raises `IllegalInstruction`, never an instruction that decoded. -/
theorem exec_ne_illegalInstruction (i : Instr) (s : State) (p w : Word) :
    exec i s ≠ .fault (.illegalInstruction p w) := by
  cases i
  case lw rd rs1 imm =>
    cases hm : memRead (s.readReg rs1 + sext32 imm) s with
    | ok q => simp [exec_lw_of_ok hm]
    | error f =>
      rw [exec_lw_of_error hm]
      rintro ⟨⟩
      exact memRead_ne_illegalInstruction _ _ _ _ hm
  case sw rs1 rs2 imm =>
    cases hm : memWrite (s.readReg rs1 + sext32 imm) (s.readReg rs2) s with
    | ok q => simp [exec_sw_of_ok hm]
    | error f =>
      rw [exec_sw_of_error hm]
      rintro ⟨⟩
      exact memWrite_ne_illegalInstruction _ _ _ _ _ hm
  all_goals exact nofun

/-- Settles O5: decoding fails on exactly these words, and nothing else in a step raises that fault. -/
theorem illegalWordsFault : Obligations.IllegalWordsFault := by
  intro s w hf
  rw [outsideTable_iff]
  constructor
  · intro h
    cases hd : decodeWord w with
    | ok i => exact absurd hd (h i)
    | error e => exact step_of_decode_error hf hd
  · intro h i hd
    rw [step_of_decode hf hd] at h
    exact exec_ne_illegalInstruction i s _ _ h

/-- Settles O27: a legal word of the group is the word of a branch, whose fields are the word's. -/
theorem branchWordsFollowConditionTable : Obligations.BranchWordsFollowConditionTable := by
  intro s w hf hlegal hop
  obtain ⟨i, hi⟩ := exists_decodesAs_of_not_outsideTable hlegal
  obtain rfl := encode_of_decodesAs hi
  have hstep := (step_of_decode hf (decodeWord_encode i)).trans (exec_branch hop s)
  obtain ⟨taken, notTaken⟩ := exec_branch_pc hop (exec_branch hop s)
  exact ⟨_, hstep, fun _ => rfl, ⟨fun _ => rfl, rfl, rfl, rfl, rfl, rfl, rfl, rfl, rfl, rfl, rfl⟩, taken, notTaken⟩

end Sys2Proof.Claims
end

section
/-! The opcode table (30_encoding.md R80): closed facts about its 50 rows, and that a row's mask and match hold of a word exactly when
the word decodes to the row's mnemonic. -/

namespace Sys2Proof.Laws.EncodeInTable

theorem holds (i : Instr) : Statement i := by
  cases i
  exacts [add .., sub .., and .., or .., xor .., nand .., nor .., xnor ..,
    addi .., subi .., andi .., ori .., xori .., nandi .., nori .., xnori .., mvhi .., lw .., sw ..,
    f .., eq .., lt .., lte .., t .., ne .., gte .., gt .., fi .., eqi .., lti .., ltei .., ti .., nei .., gtei .., gti ..,
    bf .., beq .., blt .., blte .., beqz .., bltz .., bltez .., bt .., bne .., bgte .., bgt .., bnez .., bgtez .., bgtz ..,
    jal ..]

end Sys2Proof.Laws.EncodeInTable

namespace Sys2Proof

open Claims

/-! ### The rows themselves -/

theorem mnemonics_nodup : (opcodeRows.map OpcodeRow.mnemonic).Nodup := by decide

/-- No two rows have both opcode and function code in common. -/
theorem codes_nodup : (opcodeRows.map fun r => (opOf r.value, fnOf r.value)).Nodup := by decide

theorem rows_value_legal : ∀ r ∈ opcodeRows, ¬ OutsideTable r.value := by
  unfold OutsideTable; decide

/-- What the mask of a row covers: `op` and `fn`, the zeros of format R, the zeros of formats U and Z. -/
theorem rows_mask_covers : ∀ r ∈ opcodeRows,
    opOf r.mask = BitVec.allOnes 4 ∧ fnOf r.mask = BitVec.allOnes 4 ∧
    ((opOf r.value = 0b0000#4 ∨ opOf r.value = 0b0010#4) → z12Of r.mask = BitVec.allOnes 12) ∧
    (((opOf r.value = 0b1000#4 ∧ fnOf r.value = 0b1011#4) ∨ (opOf r.value = 0b0110#4 ∧ (fnOf r.value).getLsbD 2 = true)) →
      fbOf r.mask = 15) := by decide

/-! ### A word of a row -/

/-- A field the mask covers is the match's field. -/
theorem field_of_masked {w m v : Word} {lo len : Nat} (h : w &&& m = v)
    (hm : m.extractLsb' lo len = BitVec.allOnes len) : w.extractLsb' lo len = v.extractLsb' lo len := by
  rw [← h, BitVec.extractLsb'_and, hm, BitVec.and_allOnes]

section
variable {r : OpcodeRow} {w : Word} (hr : r ∈ opcodeRows) (h : w &&& r.mask = r.value)
include hr h

theorem op_fn_of_row : opOf w = opOf r.value ∧ fnOf w = fnOf r.value := by
  obtain ⟨op, fn, -, -⟩ := rows_mask_covers r hr
  exact ⟨field_of_masked h op, field_of_masked h fn⟩

/-- A word of a row is legal, for so is the row's match, and the mask covers every bit that `OutsideTable` looks at. -/
theorem not_outsideTable_of_row : ¬ OutsideTable w := by
  obtain ⟨op, fn⟩ := op_fn_of_row hr h
  obtain ⟨-, -, filler, slot⟩ := rows_mask_covers r hr
  have hv := rows_value_legal r hr
  simp only [OutsideTable, not_or, not_and, not_not, op, fn] at hv ⊢
  obtain ⟨opcode, aluR, aluI, cmp, branchZ, function, fillerZero, slotZero⟩ := hv
  refine ⟨opcode, aluR, aluI, cmp, branchZ, function, fun c => ?_, fun c => ?_⟩
  · exact (field_of_masked h (filler c)).trans (fillerZero c)
  · have hfb : fbOf w = fbOf r.value :=
      congrArg BitVec.toFin (field_of_masked h (lo := 24) (len := 4) (BitVec.eq_of_toFin_eq (slot c)))
    exact hfb.trans (slotZero c)

end

/-- A word is of one row at most: its opcode and function code tell which. -/
theorem row_unique {r r' : OpcodeRow} (hr : r ∈ opcodeRows) (hr' : r' ∈ opcodeRows) {w : Word}
    (h : w &&& r.mask = r.value) (h' : w &&& r'.mask = r'.value) : r = r' := by
  obtain ⟨op, fn⟩ := op_fn_of_row hr h
  obtain ⟨op', fn'⟩ := op_fn_of_row hr' h'
  exact List.inj_on_of_nodup_map codes_nodup hr hr' (Prod.ext (op.symm.trans op') (fn.symm.trans fn'))

/-- The row of the instruction a word decodes to. -/
theorem exists_row_of_decodeWord {w : Word} {i : Instr} (h : decodeWord w = .ok i) :
    ∃ r ∈ opcodeRows, r.mnemonic = i.mnemonic ∧ w &&& r.mask = r.value := by
  obtain ⟨r, hr, hm, ha⟩ := Laws.EncodeInTable.holds i
  rw [OpcodeRow.admits, encode_of_decodeWord h, beq_iff_eq] at ha
  exact ⟨r, hr, hm, ha⟩

end Sys2Proof

namespace Sys2Proof.Claims

/-- Settles O4: a word of a row is legal, what it decodes to has a row, and rows are told apart by their codes as by their
mnemonics. -/
theorem tableRowsDecideDecoding : Obligations.TableRowsDecideDecoding := by
  refine ⟨by decide, fun r hr w => ⟨fun h => ?_, ?_⟩, fun r hr r' hr' w => row_unique hr hr'⟩
  · obtain ⟨i, hi⟩ := exists_decodesAs_of_not_outsideTable (not_outsideTable_of_row hr h)
    have hd := decodeWord_ok_iff.mpr hi
    obtain ⟨r', hr', hm, h'⟩ := exists_row_of_decodeWord hd
    obtain rfl := row_unique hr hr' h h'
    exact ⟨i, hd, hm.symm⟩
  · rintro ⟨i, hd, hm⟩
    obtain ⟨r', hr', hm', h'⟩ := exists_row_of_decodeWord hd
    obtain rfl := List.inj_on_of_nodup_map mnemonics_nodup hr' hr (hm'.trans hm)
    exact h'

end Sys2Proof.Claims
end

section
/-! Instructions that write back what they read (30_encoding.md R86). -/

namespace Sys2Proof.Machine

theorem writeReg_readReg_self (s : State) (r : RegIdx) : s.writeReg r (s.readReg r) = s := by
  cases s
  simp [State.writeReg, State.readReg, Vector.get_eq_getElem]

theorem retire_readReg_self (r : RegIdx) (s : State) : retire r (s.readReg r) s = .next (s.setPc (s.pc + 4#32)) := by
  rw [retire_eq, writeReg_readReg_self]

end Sys2Proof.Machine

namespace Sys2Proof.Claims

open Sys2Proof.Machine

/-- Settles O21: `OR` and `ADDI` write back the value they read, and the zero word is `ADD R0,R0,R0`. -/
theorem noOperations : Obligations.NoOperations := by
  intro s r r' imm
  refine ⟨rfl, ?_, ?_, fun hf => ?_⟩
  · show retire r (s.readReg r ||| s.readReg r) s = _
    rw [BitVec.or_self, retire_readReg_self]
  · show retire r (s.readReg r + 0#32) s = _
    rw [BitVec.add_zero, retire_readReg_self]
  · have hd : decodeWord 0x00000000#32 = .ok (.add 0 0 0) := decodeWord_encode (.add 0 0 0)
    have hstep : step s = retire 0 (s.readReg 0 + s.readReg 0) s := step_of_decode hf hd
    rw [← BitVec.two_mul] at hstep
    exact ⟨_, hstep, writesOnly_writeReg_setPc s 0 _ _⟩

end Sys2Proof.Claims
end

section
/-! Immediate operands of the assembler (30_encoding.md R89, R90): the field of a number, the field of a label, and where the
instruction that holds the field of a label leads. -/

namespace Sys2Proof.Machine

/-! ### Numbers -/

theorem numberField_of_mem {n : Int} (hlo : -32768 ≤ n) (hhi : n ≤ 65535) :
    numberField n = .ok (BitVec.ofInt 16 n) := if_pos ⟨hlo, hhi⟩

theorem numberField_of_not_mem {n : Int} (h : n < -32768 ∨ 65535 < n) : numberField n = .error (.numberTooWide n) :=
  if_neg (by omega)

theorem immField_of_readNumber {t : String} {n : Int} (h : readNumber t = some n) (use : ImmUse) (symbols : Symbols)
    (pc : Word) : immField use symbols pc t = numberField n := by
  simp [immField, h]

/-! ### Integers as fields and as words -/

/-- The field of a signed 16-bit number extends to the number. -/
theorem sext32_ofInt {n : Int} (hlo : -32768 ≤ n) (hhi : n ≤ 32767) : sext32 (BitVec.ofInt 16 n) = BitVec.ofInt 32 n := by
  apply BitVec.eq_of_toInt_eq
  rw [Claims.sext32_toInt, BitVec.toInt_ofInt, BitVec.toInt_ofInt, Int.bmod_eq_of_le (by omega) (by omega),
    Int.bmod_eq_of_le (by omega) (by omega)]

theorem sext32_ofNat {n : Nat} (h : n < 32768) : sext32 (BitVec.ofNat 16 n) = BitVec.ofInt 32 n := by
  rw [← BitVec.ofInt_natCast, sext32_ofInt (by omega) (by omega)]

theorem ofInt_toNat (a : Word) : BitVec.ofInt 32 a.toNat = a := by
  rw [BitVec.ofInt_natCast, BitVec.ofNat_toNat, BitVec.setWidth_eq]

/-- Going `q` words on from the byte address `m`. -/
theorem ofInt_add_four_mul (m q : Int) :
    BitVec.ofInt 32 m + 4#32 * BitVec.ofInt 32 q = BitVec.ofInt 32 (m + 4 * q) := by
  rw [BitVec.ofInt_add, BitVec.ofInt_mul]
  rfl

/-! ### Labels -/

theorem distanceField_ok_iff {pc label : Word} {f : Imm} : distanceField pc label = .ok f ↔
    (((label.toNat : Int) - pc.toNat - 4) % 4 = 0 ∧ -32768 ≤ ((label.toNat : Int) - pc.toNat - 4) / 4 ∧
      ((label.toNat : Int) - pc.toNat - 4) / 4 ≤ 32767) ∧
    BitVec.ofInt 16 (((label.toNat : Int) - pc.toNat - 4) / 4) = f := by
  simp only [distanceField]
  split <;> rename_i c
  · simp [c]
  · simp only [c, false_and, iff_false]
    exact nofun

theorem branch_reaches_label {pc label : Word} {f : Imm} (h : distanceField pc label = .ok f) :
    pc + 4#32 + 4#32 * sext32 f = label := by
  obtain ⟨⟨hmod, hlo, hhi⟩, rfl⟩ := distanceField_ok_iff.mp h
  have hnext : pc + 4#32 = BitVec.ofInt 32 (pc.toNat + 4) := by rw [BitVec.ofInt_add, ofInt_toNat]; rfl
  have hdistance : (pc.toNat : Int) + 4 + 4 * (((label.toNat : Int) - pc.toNat - 4) / 4) = label.toNat := by omega
  rw [sext32_ofInt hlo hhi, hnext, ofInt_add_four_mul, hdistance, ofInt_toNat]

/-- The address in words of a label below 2^17 leaves the sign bit of the field clear. -/
theorem jump_reaches_label {label : Word} (ha : label.toNat % 4 = 0) (hr : label.toNat < 131072) :
    0#32 + 4#32 * sext32 (BitVec.ofNat 16 (label.toNat / 4)) = label := by
  have haddress : (0 : Int) + 4 * ((label.toNat / 4 : Nat) : Int) = label.toNat := by omega
  calc 0#32 + 4#32 * sext32 (BitVec.ofNat 16 (label.toNat / 4))
      = BitVec.ofInt 32 0 + 4#32 * BitVec.ofInt 32 (label.toNat / 4 : Nat) := by rw [sext32_ofNat (by omega)]; rfl
    _ = label := by rw [ofInt_add_four_mul, haddress, ofInt_toNat]

/-- An address below 2^15 is its own low half, and the sign bit of that field is clear. -/
theorem sext32_lowHalf {label : Word} (hr : label.toNat < 32768) : sext32 (label.extractLsb' 0 16) = label := by
  have hlow : label.extractLsb' 0 16 = BitVec.ofNat 16 label.toNat := (BitVec.setWidth_eq_extractLsb' (by decide)).symm
  rw [hlow, sext32_ofNat hr, ofInt_toNat]

theorem wordAddressField_aligned {label : Word} (h : label.toNat % 4 = 0) :
    wordAddressField label = .ok (BitVec.ofNat 16 (label.toNat / 4)) := if_pos h

theorem wordAddressField_misaligned {label : Word} (h : label.toNat % 4 ≠ 0) :
    wordAddressField label = .error (.badDistance label.toNat) := if_neg h

end Sys2Proof.Machine

namespace Sys2Proof.Claims

open Sys2Proof.Machine

/-- Settles O47: the two cases of `numberField`, and that an operand that reads as a number is nothing else. -/
theorem numbersBecomeFields : Obligations.NumbersBecomeFields := by
  refine ⟨fun n hlo hhi => ⟨_, numberField_of_mem hlo hhi, ?_⟩, fun n => numberField_of_not_mem,
    fun use symbols pc t n h => immField_of_readNumber h use symbols pc, by decide, by decide, by decide, by decide⟩
  rw [BitVec.toNat_ofInt]
  omega

/-- Settles O48: where a branch, a jump and an unscaled field lead; their ranges are arithmetic. -/
theorem labelsAreReached : Obligations.LabelsAreReached := by
  refine ⟨fun pc label f => branch_reaches_label, fun pc label => ?_, fun pc label hpc hlabel hpcRam hlabelRam => ?_,
    fun pc label ha hr => ?_, fun pc label ha => ⟨_, wordAddressField_misaligned ha⟩, fun pc label => ?_, fun _ _ => rfl⟩
  · simp [labelField, distanceField_ok_iff]
  · exact ⟨_, distanceField_ok_iff.mpr ⟨by omega, rfl⟩⟩
  · refine ⟨_, wordAddressField_aligned ha, ?_, jump_reaches_label ha (by omega)⟩
    rw [BitVec.toNat_ofNat]
    omega
  · exact ⟨_, rfl, by simp, fun hr => sext32_lowHalf (by omega)⟩

end Sys2Proof.Claims
end

section
/-! Format R words whose instruction ends in `retire` (30_encoding.md R71, 40_alu_r.md R100): the word decodes, and its
instruction writes `rd` and goes on to the next word. The eight of ALU-R differ only in the value written. -/

namespace Sys2Proof.Claims

open Sys2Proof.Machine

/-- The word of the statements is the format R word of its fields. -/
theorem wordR_eq_packR (fa fb fc : RegIdx) (fn op : BitVec 4) :
    wordR fa fb fc (fn.toNat * 2 ^ 4 + op.toNat) = packR fa fb fc fn op := by
  apply BitVec.eq_of_toNat_eq
  rw [packR_toNat, wordR, BitVec.toNat_ofNat]
  omega

theorem decodeWord_wordR {fa fb fc : RegIdx} {i : Instr} (fn op : BitVec 4) (h : encode i = packR fa fb fc fn op) :
    decodeWord (wordR fa fb fc (fn.toNat * 2 ^ 4 + op.toNat)) = .ok i := by
  rw [wordR_eq_packR, ← h, decodeWord_encode]

theorem yields_of_retire {i : Instr} {s : State} {rd : RegIdx} {v : Word} (h : exec i s = retire rd v s) :
    Yields i s rd v (s.pc + 4#32) :=
  ⟨_, h.trans (retire_eq rd v s), writesOnly_writeReg_setPc s rd v _⟩

/-- Settles O16: each word is that of its function code under primary opcode 0000, and each instruction retires its result. -/
theorem aluRegisterResults : Obligations.AluRegisterResults := by
  intro rd rs1 rs2 s
  refine ⟨?add, ?sub, ?and, ?or, ?xor, ?nand, ?nor, ?xnor⟩
  case add => exact ⟨decodeWord_wordR 0b0000#4 0b0000#4 rfl, yields_of_retire rfl⟩
  case sub => exact ⟨decodeWord_wordR 0b0001#4 0b0000#4 rfl, yields_of_retire rfl⟩
  case and => exact ⟨decodeWord_wordR 0b0100#4 0b0000#4 rfl, yields_of_retire rfl⟩
  case or => exact ⟨decodeWord_wordR 0b0101#4 0b0000#4 rfl, yields_of_retire rfl⟩
  case xor => exact ⟨decodeWord_wordR 0b0110#4 0b0000#4 rfl, yields_of_retire rfl⟩
  case nand => exact ⟨decodeWord_wordR 0b1100#4 0b0000#4 rfl, yields_of_retire rfl⟩
  case nor => exact ⟨decodeWord_wordR 0b1101#4 0b0000#4 rfl, yields_of_retire rfl⟩
  case xnor => exact ⟨decodeWord_wordR 0b1110#4 0b0000#4 rfl, yields_of_retire rfl⟩

end Sys2Proof.Claims
end

section
/-! ALU-I (41_alu_i.md): the format I words of its instructions that end in `retire`, the value `MVHI` writes, and the constant
that `MVHI` and `ADDI` build together. -/

namespace Sys2Proof.Claims

open Sys2Proof.Machine

/-! ### The high half (41_alu_i.md R129) -/

theorem highHalf_toNat (imm : Imm) : (highHalf imm).toNat = imm.toNat * 2 ^ 16 := by
  rw [highHalf, append_toNat, BitVec.toNat_zero, Nat.add_zero]

theorem highHalf_eq_ofNat (imm : Imm) : highHalf imm = BitVec.ofNat 32 (imm.toNat * 2 ^ 16) := by
  rw [← highHalf_toNat, BitVec.ofNat_toNat, BitVec.setWidth_eq]

/-- The shift by 16 drops the copies of the sign bit. -/
theorem highHalf_eq_sext32_shiftLeft (imm : Imm) : highHalf imm = sext32 imm <<< 16 := by
  apply BitVec.eq_of_getLsbD_eq
  intro k hk
  rw [highHalf, BitVec.getLsbD_append, BitVec.getLsbD_shiftLeft]
  by_cases h : k < 16
  · simp [h]
  · rw [sext32_getLsbD imm (by omega)]
    simp [h, hk, show k - 16 < 16 by omega]

/-! ### A constant from its halves (41_alu_i.md section 3) -/

/-- The sign extension takes 2^16 off when bit 15 is set. -/
theorem sext32_toNat (imm : Imm) : (sext32 imm).toNat = imm.toNat + if 2 ^ 15 ≤ imm.toNat then 2 ^ 32 - 2 ^ 16 else 0 := by
  rw [sext32, BitVec.toNat_signExtend, BitVec.toNat_setWidth_of_le (by decide), BitVec.msb_eq_decide]
  simp

/-- Bit 15 added to the upper half makes up for what the sign extension of the lower half takes off. -/
theorem highHalf_add_sext32 (K : Word) :
    highHalf (K.extractLsb' 16 16 + (K.extractLsb' 15 1).setWidth 16) + sext32 (K.extractLsb' 0 16) = K := by
  apply BitVec.eq_of_toNat_eq
  rw [BitVec.toNat_add, highHalf_toNat, BitVec.toNat_add, BitVec.toNat_setWidth_of_le (by decide), sext32_toNat]
  simp only [field_toNat]
  split <;> omega

/-! ### Words of format I (30_encoding.md R72) -/

theorem decodeWord_wordI {fa fb : RegIdx} {imm : Imm} {i : Instr} (fn op : BitVec 4) (h : encode i = packI fa fb imm fn op) :
    decodeWord (wordI fa fb imm (fn.toNat * 2 ^ 4 + op.toNat)) = .ok i := by
  rw [wordI_eq_packI fa fb imm fn.isLt, BitVec.ofNat_toNat, BitVec.setWidth_eq, ← h, decodeWord_encode]

/-- Settles O17: each word is that of its function code under primary opcode 1000, and each instruction retires its result. -/
theorem aluImmediateResults : Obligations.AluImmediateResults := by
  intro rd rs1 imm s
  refine ⟨?addi, ?subi, ?andi, ?ori, ?xori, ?nandi, ?nori, ?xnori⟩
  case addi => exact ⟨decodeWord_wordI 0b0000#4 0b1000#4 rfl, yields_of_retire rfl⟩
  case subi => exact ⟨decodeWord_wordI 0b0001#4 0b1000#4 rfl, yields_of_retire rfl⟩
  case andi => exact ⟨decodeWord_wordI 0b0100#4 0b1000#4 rfl, yields_of_retire rfl⟩
  case ori => exact ⟨decodeWord_wordI 0b0101#4 0b1000#4 rfl, yields_of_retire rfl⟩
  case xori => exact ⟨decodeWord_wordI 0b0110#4 0b1000#4 rfl, yields_of_retire rfl⟩
  case nandi => exact ⟨decodeWord_wordI 0b1100#4 0b1000#4 rfl, yields_of_retire rfl⟩
  case nori => exact ⟨decodeWord_wordI 0b1101#4 0b1000#4 rfl, yields_of_retire rfl⟩
  case xnori => exact ⟨decodeWord_wordI 0b1110#4 0b1000#4 rfl, yields_of_retire rfl⟩

/-! ### `MVHI` -/

/-- The word with one register field is the one with two whose second field is 0. -/
theorem wordU_eq_wordI (fa : RegIdx) (imm : Imm) (code : Nat) : wordU fa imm code = wordI fa 0 imm code := by
  simp [wordU, wordI]

theorem decodeWord_mvhi (rd : RegIdx) (imm : Imm) : decodeWord (wordU rd imm 0xB8) = .ok (.mvhi rd imm) := by
  rw [wordU_eq_wordI]
  exact decodeWord_wordI 0b1011#4 0b1000#4 (packU_eq_packI rd imm _ _)

theorem yields_mvhi (rd : RegIdx) (imm : Imm) (s : State) : Yields (.mvhi rd imm) s rd (highHalf imm) (s.pc + 4#32) :=
  yields_of_retire rfl

/-- 30_encoding.md R85 point 5 for `MVHI`: bits 27:24 of its word are zero. -/
theorem outsideTable_mvhi_slot (rd : RegIdx) {fb : RegIdx} (hfb : fb ≠ 0) (imm : Imm) : OutsideTable (wordI rd fb imm 0xB8) := by
  have hword : wordI rd fb imm 0xB8 = packI rd fb imm 0b1011#4 0b1000#4 :=
    wordI_eq_packI rd fb imm (fn := 11) (by decide) 0b1000#4
  simp [hword, OutsideTable, hfb]

/-- Settles O18: `MVHI` retires its high half, which is both forms of the value; a nonzero slot is outside the table. -/
theorem mvhiResult : Obligations.MvhiResult := by
  intro rd fb imm s
  rw [← highHalf_eq_ofNat]
  exact ⟨decodeWord_mvhi rd imm, yields_mvhi rd imm s, highHalf_eq_sext32_shiftLeft imm,
    fun hfb hf => (illegalWordsFault s _ hf).mp (outsideTable_mvhi_slot rd hfb imm)⟩

/-! ### `MVHI`, then `ADDI` -/

theorem RestSame.trans {s t u : State} (hst : RestSame s t) (htu : RestSame t u) : RestSame s u := by
  simp_all [RestSame]

/-- Of two writes to one register the second remains. -/
theorem WritesOnly.trans {s t u : State} {rd : RegIdx} {v v' p p' : Word} (hst : WritesOnly s t rd v p)
    (htu : WritesOnly t u rd v' p') : WritesOnly s u rd v' p' := by
  obtain ⟨_, others, _, rest⟩ := hst
  obtain ⟨value, others', hpc, rest'⟩ := htu
  exact ⟨value, fun r hr => (others' r hr).trans (others r hr), hpc, rest.trans rest'⟩

/-- Settles O20: `ADDI` adds the low half to what `MVHI` left in `rd`, and the two halves sum to `K`. -/
theorem constantBuiltInTwoInstructions : Obligations.ConstantBuiltInTwoInstructions := by
  intro K rd s
  obtain ⟨t, hmvhi, ht⟩ := yields_mvhi rd (K.extractLsb' 16 16 + (K.extractLsb' 15 1).setWidth 16) s
  have haddi : Yields (.addi rd rd (K.extractLsb' 0 16)) t rd (t.readReg rd + sext32 (K.extractLsb' 0 16)) (t.pc + 4#32) :=
    yields_of_retire rfl
  have ⟨value, _, hpc, _⟩ := ht
  rw [value, highHalf_add_sext32, hpc, BitVec.add_assoc] at haddi
  obtain ⟨u, haddi, hu⟩ := haddi
  exact ⟨t, u, hmvhi, haddi, ht.trans hu⟩

end Sys2Proof.Claims
end

section
/-! Compares (43_cmp_r.md R150, 44_cmp_i.md R170): the word a condition writes, and the compares of both groups from their own words:
each retires the word of the condition its function code names. -/

namespace Sys2Proof.Claims

open Sys2Proof.Machine

/-! ### The word a compare writes -/

theorem condWord_eq_oneIf {c : Cond} {a b : Word} {p : Prop} [Decidable p] (h : condHolds c a b = true ↔ p) :
    condWord c a b = oneIf p :=
  ite_congr (propext h) (fun _ => rfl) fun _ => rfl

section
variable (a b : Word)

theorem condWord_f : condWord .f a b = 0#32 := rfl

theorem condWord_t : condWord .t a b = 1#32 := rfl

theorem condWord_eq : condWord .eq a b = oneIf (a = b) := condWord_eq_oneIf beq_iff_eq

theorem condWord_ne : condWord .ne a b = oneIf (a ≠ b) := condWord_eq_oneIf bne_iff_ne

theorem condWord_lt : condWord .lt a b = oneIf (a.toInt < b.toInt) := condWord_eq_oneIf decide_eq_true_iff

theorem condWord_lte : condWord .lte a b = oneIf (a.toInt ≤ b.toInt) := condWord_eq_oneIf decide_eq_true_iff

theorem condWord_gte : condWord .gte a b = oneIf (a.toInt ≥ b.toInt) := condWord_eq_oneIf decide_eq_true_iff

theorem condWord_gt : condWord .gt a b = oneIf (a.toInt > b.toInt) := condWord_eq_oneIf decide_eq_true_iff

end

theorem yields_of_compare {i : Instr} {s : State} {rd : RegIdx} {c : Cond} {a b v : Word}
    (h : exec i s = retire rd (condWord c a b) s) (hv : condWord c a b = v) : Yields i s rd v (s.pc + 4#32) :=
  hv ▸ yields_of_retire h

/-- Settles O22: each word is that of its function code under primary opcode 0010, and each instruction retires the word of its
condition. -/
theorem compareRegisterResults : Obligations.CompareRegisterResults := by
  intro rd rs1 rs2 s
  refine ⟨?f, ?eq, ?lt, ?lte, ?t, ?ne, ?gte, ?gt⟩
  case f => exact ⟨decodeWord_wordR 0b0000#4 0b0010#4 rfl, yields_of_compare rfl (condWord_f _ _)⟩
  case eq => exact ⟨decodeWord_wordR 0b0001#4 0b0010#4 rfl, yields_of_compare rfl (condWord_eq _ _)⟩
  case lt => exact ⟨decodeWord_wordR 0b0010#4 0b0010#4 rfl, yields_of_compare rfl (condWord_lt _ _)⟩
  case lte => exact ⟨decodeWord_wordR 0b0011#4 0b0010#4 rfl, yields_of_compare rfl (condWord_lte _ _)⟩
  case t => exact ⟨decodeWord_wordR 0b1000#4 0b0010#4 rfl, yields_of_compare rfl (condWord_t _ _)⟩
  case ne => exact ⟨decodeWord_wordR 0b1001#4 0b0010#4 rfl, yields_of_compare rfl (condWord_ne _ _)⟩
  case gte => exact ⟨decodeWord_wordR 0b1010#4 0b0010#4 rfl, yields_of_compare rfl (condWord_gte _ _)⟩
  case gt => exact ⟨decodeWord_wordR 0b1011#4 0b0010#4 rfl, yields_of_compare rfl (condWord_gt _ _)⟩

/-! ### Compares by the bits of their words (30_encoding.md R82) -/

/-- Every CMP-R instruction retires the condition of its own function code, on the registers of its word. -/
theorem exec_cmpR {i : Instr} (h : opOf (encode i) = 0b0010#4) (s : State) :
    exec i s = retire (faOf (encode i)) (condWord (condOf (fnOf (encode i))) (s.readReg (fbOf (encode i)))
      (s.readReg (fcOf (encode i)))) s := by
  cases i
  case f | eq | lt | lte | t | ne | gte | gt =>
    simp only [encode, fnOf_packR, faOf_packR, fbOf_packR, fcOf_packR]; rfl
  all_goals simp [encode] at h

/-- Every CMP-I instruction does so with the immediate of its word as its second comparand. -/
theorem exec_cmpI {i : Instr} (h : opOf (encode i) = 0b1010#4) (s : State) :
    exec i s = retire (faOf (encode i)) (condWord (condOf (fnOf (encode i))) (s.readReg (fbOf (encode i)))
      (sext32 (immOf (encode i)))) s := by
  cases i
  case fi | eqi | lti | ltei | ti | nei | gtei | gti =>
    simp only [encode, fnOf_packI, faOf_packI, fbOf_packI, immOf_packI]; rfl
  all_goals simp [encode] at h

theorem condWord_condOf_of_holds {fn : BitVec 4} {a b : Word} (h : bitCond fn a b) : condWord (condOf fn) a b = 1#32 :=
  if_pos ((condHolds_condOf fn a b).mpr h)

theorem condWord_condOf_of_not {fn : BitVec 4} {a b : Word} (h : ¬ bitCond fn a b) : condWord (condOf fn) a b = 0#32 :=
  if_neg (mt (condHolds_condOf fn a b).mp h)

/-- A step that retires the condition of a function code ends as the condition table says. -/
theorem follows_table_of_retire {s : State} {rd : RegIdx} {fn : BitVec 4} {a b : Word}
    (h : step s = retire rd (condWord (condOf fn) a b) s) :
    ∃ t, step s = .next t ∧ ∃ v, (bitCond fn a b → v = 1#32) ∧ (¬ bitCond fn a b → v = 0#32) ∧
      WritesOnly s t rd v (s.pc + 4#32) :=
  ⟨_, h.trans (retire_eq _ _ s), _, condWord_condOf_of_holds, condWord_condOf_of_not, writesOnly_writeReg_setPc s rd _ _⟩

/-- Settles O24: a legal word of either group is the word of a compare, whose fields are the word's. -/
theorem compareWordsFollowConditionTable : Obligations.CompareWordsFollowConditionTable := by
  intro s w hf hlegal
  obtain ⟨i, hi⟩ := exists_decodesAs_of_not_outsideTable hlegal
  obtain rfl := encode_of_decodesAs hi
  have hstep : step s = exec i s := step_of_decode hf (decodeWord_encode i)
  exact ⟨fun hop => follows_table_of_retire (hstep.trans (exec_cmpR hop s)),
    fun hop => follows_table_of_retire (hstep.trans (exec_cmpI hop s))⟩

end Sys2Proof.Claims
end

section
/-! Compares with an immediate (44_cmp_i.md R170 to R178): the condition words of CMP-R, the second comparand sign-extended. -/

namespace Sys2Proof.Claims

open Sys2Proof.Machine

/-- Settles O23: each word is that of its function code under primary opcode 1010, and each instruction retires the word of its
condition on `rs1` and the sign-extended immediate. -/
theorem compareImmediateResults : Obligations.CompareImmediateResults := by
  intro rd rs1 imm s
  refine ⟨?fi, ?eqi, ?lti, ?ltei, ?ti, ?nei, ?gtei, ?gti⟩
  case fi => exact ⟨decodeWord_wordI 0b0000#4 0b1010#4 rfl, yields_of_compare rfl (condWord_f _ _)⟩
  case eqi => exact ⟨decodeWord_wordI 0b0001#4 0b1010#4 rfl, yields_of_compare rfl (condWord_eq _ _)⟩
  case lti => exact ⟨decodeWord_wordI 0b0010#4 0b1010#4 rfl, yields_of_compare rfl (condWord_lt _ _)⟩
  case ltei => exact ⟨decodeWord_wordI 0b0011#4 0b1010#4 rfl, yields_of_compare rfl (condWord_lte _ _)⟩
  case ti => exact ⟨decodeWord_wordI 0b1000#4 0b1010#4 rfl, yields_of_compare rfl (condWord_t _ _)⟩
  case nei => exact ⟨decodeWord_wordI 0b1001#4 0b1010#4 rfl, yields_of_compare rfl (condWord_ne _ _)⟩
  case gtei => exact ⟨decodeWord_wordI 0b1010#4 0b1010#4 rfl, yields_of_compare rfl (condWord_gte _ _)⟩
  case gti => exact ⟨decodeWord_wordI 0b1011#4 0b1010#4 rfl, yields_of_compare rfl (condWord_gt _ _)⟩

end Sys2Proof.Claims
end

section
/-! Branches (45_branch.md R190 to R205): what `branchOn` does from what its condition says, the sign bit, and the words of the group,
two registers or one and a zero slot. -/

namespace Sys2Proof.Claims

open Sys2Proof.Machine

/-! ### What a condition says (43_cmp_r.md R150) -/

section
variable (a b : Word)

theorem condHolds_f_iff : condHolds .f a b = true ↔ False := iff_of_false Bool.false_ne_true not_false

theorem condHolds_t_iff : condHolds .t a b = true ↔ True := iff_of_true rfl trivial

theorem condHolds_eq_iff : condHolds .eq a b = true ↔ a = b := beq_iff_eq

theorem condHolds_ne_iff : condHolds .ne a b = true ↔ a ≠ b := bne_iff_ne

theorem condHolds_lt_iff : condHolds .lt a b = true ↔ a.toInt < b.toInt := decide_eq_true_iff

theorem condHolds_lte_iff : condHolds .lte a b = true ↔ a.toInt ≤ b.toInt := decide_eq_true_iff

theorem condHolds_gte_iff : condHolds .gte a b = true ↔ a.toInt ≥ b.toInt := decide_eq_true_iff

theorem condHolds_gt_iff : condHolds .gt a b = true ↔ a.toInt > b.toInt := decide_eq_true_iff

end

/-! ### The shared end of a branch (45_branch.md R190) -/

/-- Writing `pc` writes nothing else. -/
theorem goesTo_of_setPc {i : Instr} {s : State} {p : Word} (h : exec i s = .next (s.setPc p)) : GoesTo i s p :=
  ⟨_, h, rfl, fun _ => rfl, fun _ => rfl, rfl, rfl, rfl, rfl, rfl, rfl, rfl, rfl, rfl, rfl⟩

theorem branchOn_taken {c : Cond} {a b : Word} (h : condHolds c a b = true) (imm : Imm) (s : State) :
    branchOn c a b imm s = .next (s.setPc (s.pc + 4#32 + 4#32 * sext32 imm)) := by
  rw [branchOn, if_pos h, branchTarget, wordDisplacement_eq]

theorem branchOn_notTaken {c : Cond} {a b : Word} (h : ¬ condHolds c a b = true) (imm : Imm) (s : State) :
    branchOn c a b imm s = .next (s.setPc (s.pc + 4#32)) := by
  rw [branchOn, if_neg h, nextPc_def]

theorem branchesWhen_of_branchOn {i : Instr} {s : State} {imm : Imm} {c : Cond} {a b : Word} {p : Prop}
    (h : exec i s = branchOn c a b imm s) (hp : condHolds c a b = true ↔ p) : BranchesWhen i s imm p :=
  ⟨fun hc => goesTo_of_setPc (h.trans (branchOn_taken (hp.mpr hc) imm s)),
    fun hc => goesTo_of_setPc (h.trans (branchOn_notTaken (mt hp.mp hc) imm s))⟩

/-- Settles O25: each word is that of its function code under primary opcode 0110, and each instruction branches on its condition of
the two registers. -/
theorem twoRegisterBranches : Obligations.TwoRegisterBranches := by
  intro rs1 rs2 imm s
  refine ⟨?bf, ?beq, ?blt, ?blte, ?bt, ?bne, ?bgte, ?bgt⟩
  case bf => exact ⟨decodeWord_wordI 0b0000#4 0b0110#4 rfl, branchesWhen_of_branchOn rfl (condHolds_f_iff _ _)⟩
  case beq => exact ⟨decodeWord_wordI 0b0001#4 0b0110#4 rfl, branchesWhen_of_branchOn rfl (condHolds_eq_iff _ _)⟩
  case blt => exact ⟨decodeWord_wordI 0b0010#4 0b0110#4 rfl, branchesWhen_of_branchOn rfl (condHolds_lt_iff _ _)⟩
  case blte => exact ⟨decodeWord_wordI 0b0011#4 0b0110#4 rfl, branchesWhen_of_branchOn rfl (condHolds_lte_iff _ _)⟩
  case bt => exact ⟨decodeWord_wordI 0b1000#4 0b0110#4 rfl, branchesWhen_of_branchOn rfl (condHolds_t_iff _ _)⟩
  case bne => exact ⟨decodeWord_wordI 0b1001#4 0b0110#4 rfl, branchesWhen_of_branchOn rfl (condHolds_ne_iff _ _)⟩
  case bgte => exact ⟨decodeWord_wordI 0b1010#4 0b0110#4 rfl, branchesWhen_of_branchOn rfl (condHolds_gte_iff _ _)⟩
  case bgt => exact ⟨decodeWord_wordI 0b1011#4 0b0110#4 rfl, branchesWhen_of_branchOn rfl (condHolds_gt_iff _ _)⟩

/-! ### The sign bit -/

theorem toInt_neg_iff_bit31 (a : Word) : a.toInt < 0 ↔ a.getLsbD 31 = true := by
  rw [← decide_eq_true_iff (p := a.toInt < 0), ← BitVec.msb_eq_toInt, BitVec.msb_eq_getLsbD_last]

theorem toInt_nonneg_iff_bit31 (a : Word) : a.toInt ≥ 0 ↔ a.getLsbD 31 = false := by
  rw [ge_iff_le, ← not_lt, toInt_neg_iff_bit31, Bool.not_eq_true]

/-! ### Words of format Z (30_encoding.md R75) -/

theorem decodeWord_wordU {fa : RegIdx} {imm : Imm} {i : Instr} (fn op : BitVec 4) (h : encode i = packU fa imm fn op) :
    decodeWord (wordU fa imm (fn.toNat * 2 ^ 4 + op.toNat)) = .ok i := by
  rw [wordU_eq_wordI]
  exact decodeWord_wordI fn op (h.trans (packU_eq_packI fa imm fn op))

/-- 30_encoding.md R85 point 5 for the branches with `fn[2]` set: bits 27:24 of their words are zero. -/
theorem outsideTable_branchZ_slot {fn : BitVec 4} (hfn : fn.getLsbD 2 = true) (rs1 : RegIdx) {fb : RegIdx} (hfb : fb ≠ 0)
    (imm : Imm) : OutsideTable (wordI rs1 fb imm (fn.toNat * 2 ^ 4 + (0b0110#4).toNat)) := by
  rw [wordI_eq_packI rs1 fb imm fn.isLt, BitVec.ofNat_toNat, BitVec.setWidth_eq]
  simp [OutsideTable, hfb, hfn, -BitVec.getLsbD_eq_getElem]

/-- The six codes are function codes with `fn[2]` set, over primary opcode 0110 (45_branch.md R191). -/
theorem branchZ_codes_have_fn2 : ∀ code ∈ [0x56, 0x66, 0x76, 0xD6, 0xE6, 0xF6],
    ∃ fn : BitVec 4, fn.getLsbD 2 = true ∧ fn.toNat * 2 ^ 4 + (0b0110#4).toNat = code := by decide

/-- Settles O26: each word is that of its function code under primary opcode 0110, each instruction branches on its condition of `rs1`
and zero, and a nonzero slot is outside the table. -/
theorem compareWithZeroBranches : Obligations.CompareWithZeroBranches := by
  intro rs1 imm s
  refine ⟨?beqz, ?bltz, ?bltez, ?bnez, ?bgtez, ?bgtz, ?slot⟩
  case beqz => exact ⟨decodeWord_wordU 0b0101#4 0b0110#4 rfl, branchesWhen_of_branchOn rfl (condHolds_eq_iff _ _)⟩
  case bltz =>
    exact ⟨decodeWord_wordU 0b0110#4 0b0110#4 rfl, branchesWhen_of_branchOn rfl (condHolds_lt_iff _ _), toInt_neg_iff_bit31 _⟩
  case bltez => exact ⟨decodeWord_wordU 0b0111#4 0b0110#4 rfl, branchesWhen_of_branchOn rfl (condHolds_lte_iff _ _)⟩
  case bnez => exact ⟨decodeWord_wordU 0b1101#4 0b0110#4 rfl, branchesWhen_of_branchOn rfl (condHolds_ne_iff _ _)⟩
  case bgtez =>
    exact ⟨decodeWord_wordU 0b1110#4 0b0110#4 rfl, branchesWhen_of_branchOn rfl (condHolds_gte_iff _ _), toInt_nonneg_iff_bit31 _⟩
  case bgtz => exact ⟨decodeWord_wordU 0b1111#4 0b0110#4 rfl, branchesWhen_of_branchOn rfl (condHolds_gt_iff _ _)⟩
  case slot =>
    intro fb hfb code hcode hf
    obtain ⟨fn, hfn, rfl⟩ := branchZ_codes_have_fn2 code hcode
    exact (illegalWordsFault s _ hf).mp (outsideTable_branchZ_slot hfn rs1 hfb imm)

end Sys2Proof.Claims
end

section
/-! `JAL` (46_jal.md R220, R221): its one next state, and the alignment of its target, which is that of its base and decides the fault
of the next fetch. -/

namespace Sys2Proof.Claims

open Sys2Proof.Machine

/-- The target reads the register before the link is written, so a `JAL` with `rd` = `rs1` goes to the old base. -/
theorem exec_jal (rd rs1 : RegIdx) (imm : Imm) (s : State) :
    exec (.jal rd rs1 imm) s =
      .next ((s.writeReg rd (s.pc + 4#32)).setPc (s.readReg rs1 + 4#32 * sext32 imm)) := by
  rw [← wordDisplacement_eq]
  rfl

/-- A displacement in words moves an address by a multiple of 4 (46_jal.md R221). -/
theorem add_wordDisplacement_mod_four (a : Word) (imm : Imm) :
    (a + 4#32 * sext32 imm).toNat % 4 = a.toNat % 4 := by
  have hdisplacement := wordDisplacement_mod_four imm
  rw [BitVec.toNat_add]
  omega

section
variable {rd rs1 : RegIdx} {imm : Imm} {s t : State}

theorem step_after_jal_misaligned (ht : exec (.jal rd rs1 imm) s = .next t) (hbase : (s.readReg rs1).toNat % 4 ≠ 0) :
    step t = .fault (.misalignedFetch (s.readReg rs1 + 4#32 * sext32 imm)) := by
  rw [← add_wordDisplacement_mod_four _ imm, ← exec_jal_pc ht] at hbase
  rw [← exec_jal_pc ht]
  exact step_of_fetch_error (fetch_misaligned hbase)

theorem step_after_jal_unmapped (ht : exec (.jal rd rs1 imm) s = .next t) (hbase : (s.readReg rs1).toNat % 4 = 0)
    (htarget : Config.ramBytes ≤ (s.readReg rs1 + 4#32 * sext32 imm).toNat) :
    step t = .fault (.unmappedFetch (s.readReg rs1 + 4#32 * sext32 imm)) := by
  rw [← add_wordDisplacement_mod_four _ imm, ← exec_jal_pc ht] at hbase
  rw [← exec_jal_pc ht] at htarget ⊢
  exact step_of_fetch_error (fetch_unmapped hbase htarget)

end

/-- Settles O28: the word is that of function code 0 under primary opcode 1011, its one next state writes the link and `pc`, and the
step after it fails the fetch checks that its target fails. -/
theorem jalLinksAndJumps : Obligations.JalLinksAndJumps := by
  intro rd rs1 imm s
  refine ⟨?word, ?yields, ?nextFetch, ?illegal⟩
  case word => exact decodeWord_wordI 0b0000#4 0b1011#4 rfl
  case yields => exact ⟨_, exec_jal rd rs1 imm s, writesOnly_writeReg_setPc s rd _ _⟩
  case nextFetch => exact fun t ht => ⟨step_after_jal_misaligned ht, step_after_jal_unmapped ht⟩
  case illegal => exact fun fn h0 h16 hf => step_function_illegal (op := 0b1011#4) (.inr (.inr rfl)) h0 h16 hf

end Sys2Proof.Claims
end

section
/-! One-word pseudo-instructions (47_pseudo.md R231, R232, R235 to R237): each is one real instruction with some registers fixed, so
its word and its effect are that instruction's. -/

namespace Sys2Proof.Claims

open Sys2Proof.Machine

/-- The fields that a statement fixes, summed to one constant. -/
theorem wordI_eq_ofNat (fa fb : RegIdx) (imm : Imm) (code : Nat) :
    wordI fa fb imm code = BitVec.ofNat 32 (fa.val * 2 ^ 28 + fb.val * 2 ^ 24 + code + imm.toNat * 2 ^ 8) :=
  congrArg (BitVec.ofNat 32) (Nat.add_right_comm ..)

theorem yields_nand_self (rd rs : RegIdx) (s : State) : Yields (.nand rd rs rs) s rd (~~~ s.readReg rs) (s.pc + 4#32) :=
  yields_of_retire (congrArg (fun v => retire rd (~~~ v) s) (BitVec.and_self (x := s.readReg rs)))

theorem encode_jal (rd rs1 : RegIdx) (imm : Imm) : encode (.jal rd rs1 imm) = wordI rd rs1 imm 0x0B :=
  encode_of_decodeWord (decodeWord_wordI 0b0000#4 0b1011#4 rfl)

theorem yields_jal (rd rs1 : RegIdx) (imm : Imm) (s : State) :
    Yields (.jal rd rs1 imm) s rd (s.pc + 4#32) (s.readReg rs1 + 4#32 * sext32 imm) :=
  ⟨_, exec_jal rd rs1 imm s, writesOnly_writeReg_setPc s rd _ _⟩

/-- A jump without displacement. -/
theorem yields_jal_zero (rd rs1 : RegIdx) (s : State) : Yields (.jal rd rs1 0#16) s rd (s.pc + 4#32) (s.readReg rs1) := by
  have hzero : 4#32 * sext32 0#16 = 0#32 := by decide
  simpa only [hzero, BitVec.add_zero] using yields_jal rd rs1 0#16 s

/-- Settles O45: `BR` is a `BEQ` of a register with itself, `NOT` a `NAND` of a register with itself, and the other three are `JAL`
into `RA` or `R9`. -/
theorem oneWordPseudoInstructions : Obligations.OneWordPseudoInstructions := by
  intro rd rs imm s a b t
  refine ⟨?br, ?not, ?call, ?ret, ?jmp⟩
  case br =>
    obtain ⟨-, ⟨hword, htaken, -⟩, -⟩ := twoRegisterBranches 6 6 imm s
    exact ⟨rfl, (encode_of_decodeWord hword).trans (wordI_eq_ofNat 6 6 imm 0x16), htaken rfl⟩
  case not => exact ⟨rfl, encode_of_decodeWord (decodeWord_wordR 0b1100#4 0b0000#4 rfl), yields_nand_self rd rs s⟩
  case call => exact ⟨rfl, encode_jal 15 rs imm, yields_jal 15 rs imm s⟩
  case ret => exact ⟨rfl, encode_jal 9 15 0#16, yields_jal_zero 9 15 s⟩
  case jmp => exact ⟨rfl, encode_jal 9 rs imm, yields_jal 9 rs imm s⟩

end Sys2Proof.Claims
end

section
/-! Two-word pseudo-instructions (47_pseudo.md R233, R234): a compare into `R6` that goes on to the next word, and there `BNEZ R6`. -/

namespace Sys2Proof.Machine

theorem core_run_two {s t u : State} (hst : step s = .next t) (htu : step t = .next u) : Sys2Proof.core.run 2 s = .next u := by
  simp only [core_run_succ, hst, htu]
  rfl

end Sys2Proof.Machine

namespace Sys2Proof.Claims

open Sys2Proof.Machine

/-- After an instruction that wrote a register and went on, the next word of memory is fetched. -/
theorem fetch_after_writesOnly {s t : State} {rd : RegIdx} {v w : Word} (ht : WritesOnly s t rd v (s.pc + 4#32))
    (haligned : s.pc.toNat % 4 = 0) (hram : s.pc.toNat + 4 < Config.ramBytes) (hmark : s.pc.toNat / 4 + 1 ∉ s.stored)
    (hw : s.mem.readWord (s.pc.toNat + 4) = some w) : fetch t = .ok w := by
  obtain ⟨-, -, hpc, -, hmem, hstored, -⟩ := ht
  have hnext : t.pc.toNat = s.pc.toNat + 4 := by
    rw [hpc, BitVec.toNat_add, BitVec.toNat_ofNat]
    unfold Config.ramBytes at hram
    omega
  rw [fetch_ok_iff, aligned_iff, wordIndex, hmem, hstored, hnext, Nat.add_div_right _ (by decide)]
  exact ⟨by omega, hram, hw, hmark⟩

/-- A branch keeps what the instruction before it wrote. -/
theorem WritesOnly.then_goesTo {i : Instr} {s t : State} {rd : RegIdx} {v p p' : Word} (ht : WritesOnly s t rd v p)
    (hi : GoesTo i t p') : ∃ u, exec i t = .next u ∧ WritesOnly s u rd v p' := by
  obtain ⟨value, others, -, rest⟩ := ht
  obtain ⟨u, hu, hpc, regs, rest'⟩ := hi
  exact ⟨u, hu, (regs rd).trans value, fun r hr => (regs r).trans (others r hr), hpc, rest.trans rest'⟩

/-- `BNEZ R6` after a compare into `R6` branches on the condition of the compare. -/
theorem bnez_after_compare {s t : State} {p : Prop} [Decidable p] (ht : WritesOnly s t 6 (oneIf p) (s.pc + 4#32)) (imm : Imm) :
    ∃ u, exec (.bnez 6 imm) t = .next u ∧ (p → WritesOnly s u 6 1#32 (s.pc + 8#32 + 4#32 * sext32 imm)) ∧
      (¬ p → WritesOnly s u 6 0#32 (s.pc + 8#32)) := by
  obtain ⟨-, -, -, ⟨-, htaken, hnot⟩, -⟩ := compareWithZeroBranches 6 imm t
  obtain ⟨hvalue, -, hpc, -⟩ := id ht
  have hsum : s.pc + 4#32 + 4#32 = s.pc + 8#32 := BitVec.add_assoc ..
  rw [hvalue, hpc, hsum] at htaken hnot
  unfold oneIf at ht htaken hnot
  by_cases hp : p
  · rw [if_pos hp] at ht htaken
    obtain ⟨u, hu, hsu⟩ := ht.then_goesTo (htaken (by decide))
    exact ⟨u, hu, fun _ => hsu, absurd hp⟩
  · rw [if_neg hp] at ht hnot
    obtain ⟨u, hu, hsu⟩ := ht.then_goesTo (hnot (by decide))
    exact ⟨u, hu, fun h => absurd h hp, fun _ => hsu⟩

/-- A compare into `R6` at `P` and `BNEZ R6` at `P + 4` (47_pseudo.md R233, R234). -/
theorem run_compare_bnez {s : State} {w : Word} {i : Instr} {p : Prop} [Decidable p] {imm : Imm}
    (haligned : s.pc.toNat % 4 = 0) (hram : s.pc.toNat + 4 < Config.ramBytes)
    (hmark : s.pc.toNat / 4 ∉ s.stored) (hmark' : s.pc.toNat / 4 + 1 ∉ s.stored)
    (hbnez : s.mem.readWord (s.pc.toNat + 4) = some (wordU 6 imm 0xD6))
    (hw : s.mem.readWord s.pc.toNat = some w) (hd : decodeWord w = .ok i) (hi : Yields i s 6 (oneIf p) (s.pc + 4#32)) :
    ∃ t, Sys2Proof.core.run 2 s = .next t ∧ (p → WritesOnly s t 6 1#32 (s.pc + 8#32 + 4#32 * sext32 imm)) ∧
      (¬ p → WritesOnly s t 6 0#32 (s.pc + 8#32)) := by
  obtain ⟨t, hexec, ht⟩ := hi
  obtain ⟨u, hexec', hu⟩ := bnez_after_compare ht imm
  have hfetch : fetch s = .ok w := fetch_ok_iff.mpr ⟨(aligned_iff _).mpr haligned, Nat.lt_of_add_right_lt hram, hw, hmark⟩
  have hfetch' : fetch t = .ok (wordU 6 imm 0xD6) := fetch_after_writesOnly ht haligned hram hmark' hbnez
  have hstep : step s = .next t := (step_of_decode hfetch hd).trans hexec
  have hstep' : step t = .next u := (step_of_decode hfetch' (decodeWord_wordU 0b1101#4 0b0110#4 rfl)).trans hexec'
  exact ⟨u, core_run_two hstep hstep', hu⟩

/-- Settles O46: `LTE` and `GTE` write the word of their condition into `R6`, on the registers as they were, and `BNEZ` follows it. -/
theorem twoWordPseudoInstructions : Obligations.TwoWordPseudoInstructions := by
  refine ⟨fun a b t => ⟨rfl, rfl⟩, fun rs1 rs2 imm s haligned hram hmark hmark' hbnez => ?_⟩
  have hword : wordU 6 imm 0xD6 = BitVec.ofNat 32 (0x600000D6 + imm.toNat * 2 ^ 8) :=
    (wordU_eq_wordI 6 imm 0xD6).trans (wordI_eq_ofNat 6 0 imm 0xD6)
  rw [← hword] at hbnez
  obtain ⟨-, -, -, ⟨hlte, hlteYields⟩, -, -, ⟨hgte, hgteYields⟩, -⟩ := compareRegisterResults 6 rs1 rs2 s
  exact ⟨fun hw => run_compare_bnez haligned hram hmark hmark' hbnez hw hlte hlteYields,
    fun hw => run_compare_bnez haligned hram hmark hmark' hbnez hw hgte hgteYields⟩

end Sys2Proof.Claims
end

section
/-! The image the assembler makes (47_pseudo.md R241, R244): every word goes below entry 2048 and to an entry that holds none yet, so
the image stays one that the loader can place. -/

namespace Sys2Proof.Machine

/-- What a computation that answers was made of. -/
theorem exists_of_bind_ok {ε α β : Type} {x : Except ε α} {f : α → Except ε β} {b : β} (h : x >>= f = .ok b) :
    ∃ a, x = .ok a ∧ f a = .ok b := by
  cases x with
  | error e => cases h
  | ok a => exact ⟨a, rfl, h⟩

/-- The three places of a word in an image that is not empty: before its first entry, at it (refused), behind it. -/
theorem placeWord_cons_ok {k i : Nat} {x v : Word} {im im' : Image} (h : placeWord ((k, x) :: im) i v = .ok im') :
    (i < k ∧ im' = (i, v) :: (k, x) :: im) ∨ (k < i ∧ ∃ rest, placeWord im i v = .ok rest ∧ im' = (k, x) :: rest) := by
  rw [placeWord] at h
  split at h
  case isTrue hlt => exact .inl ⟨hlt, (Except.ok.inj h).symm⟩
  case isFalse hle =>
    split at h
    case isTrue => cases h
    case isFalse hne =>
      obtain ⟨rest, hrest, h⟩ := exists_of_bind_ok h
      exact .inr ⟨by omega, rest, hrest, (Except.ok.inj h).symm⟩

theorem mem_placeWord {i : Nat} {v : Word} {im im' : Image} (h : placeWord im i v = .ok im') {e : Nat × Word} (he : e ∈ im') :
    e = (i, v) ∨ e ∈ im := by
  induction im generalizing im' with
  | nil =>
    obtain rfl := Except.ok.inj h
    exact .inl (List.mem_singleton.mp he)
  | cons d im ih =>
    obtain ⟨-, rfl⟩ | ⟨-, rest, hrest, rfl⟩ := placeWord_cons_ok h
    · exact List.mem_cons.mp he
    · rcases List.mem_cons.mp he with rfl | he
      · exact .inr List.mem_cons_self
      · exact (ih hrest he).imp_right (List.mem_cons_of_mem d)

theorem pairwise_placeWord {i : Nat} {v : Word} {im im' : Image} (him : im.Pairwise (fun x y => x.1 < y.1))
    (h : placeWord im i v = .ok im') : im'.Pairwise (fun x y => x.1 < y.1) := by
  induction im generalizing im' with
  | nil =>
    obtain rfl := Except.ok.inj h
    exact List.pairwise_singleton ..
  | cons d im ih =>
    obtain ⟨hd, hp⟩ := List.pairwise_cons.mp him
    obtain ⟨hlt, rfl⟩ | ⟨hlt, rest, hrest, rfl⟩ := placeWord_cons_ok h
    · refine List.pairwise_cons.mpr ⟨fun e he => ?_, him⟩
      rcases List.mem_cons.mp he with rfl | he
      · exact hlt
      · exact hlt.trans (hd e he)
    · refine List.pairwise_cons.mpr ⟨fun e he => ?_, ih hp hrest⟩
      rcases mem_placeWord hrest he with rfl | he
      · exact hlt
      · exact hd e he

end Sys2Proof.Machine

namespace Sys2Proof.Claims

open Sys2Proof.Machine

theorem imageValid_nil : ImageValid [] := ⟨.nil, nofun⟩

/-- A valid image has no entry past the last. -/
theorem imageEntry_past_end {im : Image} (h : ImageValid im) {i : Nat} (hi : 2048 ≤ i) : imageEntry im i = none :=
  List.lookup_eq_none_iff.mpr fun e he => bne_iff_ne.mpr (Nat.ne_of_gt ((h.2 e he).trans_le hi))

section
variable {symbols : Symbols} {im im' : Image}

theorem imageValid_emitWord {a : Nat} {v : Word} (him : ImageValid im) (h : emitWord im a v = .ok im') : ImageValid im' := by
  obtain ⟨hsorted, hbound⟩ := him
  unfold emitWord at h
  split at h
  case isFalse => cases h
  case isTrue ha =>
    refine ⟨pairwise_placeWord hsorted h, fun e he => ?_⟩
    rcases mem_placeWord h he with rfl | he
    · exact Nat.div_lt_of_lt_mul ha
    · exact hbound e he

theorem imageValid_emitAll {is : List (String × List Operand)} {a : Nat} (him : ImageValid im)
    (h : emitAll symbols is a im = .ok im') : ImageValid im' := by
  induction is generalizing a im with
  | nil => exact Except.ok.inj h ▸ him
  | cons i is ih =>
    rw [emitAll] at h
    obtain ⟨_, -, h⟩ := exists_of_bind_ok h
    obtain ⟨_, hword, h⟩ := exists_of_bind_ok h
    exact ih (imageValid_emitWord him hword) h

theorem imageValid_emit {source : List Line} {at' : Location} (him : ImageValid im)
    (h : emit symbols source at' im = .ok im') : ImageValid im' := by
  induction source generalizing at' im with
  | nil => exact Except.ok.inj h ▸ him
  | cons line ls ih =>
    cases line with
    | orig v =>
      rw [emit] at h
      obtain ⟨_, -, h⟩ := exists_of_bind_ok h
      exact ih him h
    | name t v => exact ih him h
    | label t => exact ih him h
    | stmt m os =>
      cases at' with
      | none => cases h
      | some a =>
        rw [emit] at h
        obtain ⟨_, -, h⟩ := exists_of_bind_ok h
        obtain ⟨_, hwords, h⟩ := exists_of_bind_ok h
        exact ih (imageValid_emitAll him hwords) h
    | word v =>
      cases at' with
      | none => cases h
      | some a =>
        rw [emit] at h
        obtain ⟨_, -, h⟩ := exists_of_bind_ok h
        obtain ⟨_, hword, h⟩ := exists_of_bind_ok h
        exact ih (imageValid_emitWord him hword) h

end

/-- Settles O49: the second pass starts from the empty image and keeps it valid. -/
theorem assembledImagesFitRam : Obligations.AssembledImagesFitRam := by
  intro source im h
  obtain ⟨_, -, hemit⟩ := exists_of_bind_ok h
  have him : ImageValid im := imageValid_emit imageValid_nil hemit
  exact ⟨him, by simp [imageEntries, Config.ramWords], fun i => imageEntry_past_end him⟩

end Sys2Proof.Claims
end

section
/-! The order of the checks within a step (60_exceptions.md R263), and that no instruction stops but `LW` and `SW`, each with a fault
of its own access (R260, R262). -/

namespace Sys2Proof.Claims

open Sys2Proof.Machine

/-- Settles O12: the fetch's checks, then the decoder's, then those of `LW` and `SW`, each as its own statement orders them. -/
theorem faultOrderOfAStep : Obligations.FaultOrderOfAStep := by
  intro s
  obtain ⟨hmisaligned, hunmapped, hundefined, hmapped⟩ := fetchChecksInOrder s
  refine ⟨fun ha => step_of_fetch_error (hmisaligned ha), fun ha hr => step_of_fetch_error (hunmapped ha hr),
    fun ha hr hm => step_of_fetch_error (hundefined ha hr hm), fun w ha hr hw => ?_⟩
  obtain ⟨hmarked, hunmarked⟩ := hmapped w ha hr hw
  refine ⟨fun hmark => step_of_fetch_error (hmarked hmark), fun hmark => ?_⟩
  have hf : fetch s = .ok w := hunmarked hmark
  refine ⟨(illegalWordsFault s w hf).mp, fun rd rs1 imm hd => ?_, fun rs1 rs2 imm hd => ?_⟩
  · rw [step_of_decode hf hd]
    obtain ⟨-, misaligned, -, undefined, -, -, unmapped, -⟩ := loadWordInEveryCase rd rs1 imm s _ rfl
    exact ⟨misaligned, unmapped, undefined⟩
  · rw [step_of_decode hf hd]
    obtain ⟨-, misaligned, -, -, -, -, unmapped, -⟩ := storeWordInEveryCase rs1 rs2 imm s _ _ rfl rfl
    exact ⟨misaligned, unmapped⟩

/-- The faults of a load (42_load_store.md R141). -/
theorem memRead_error {a : Word} {s : State} {f : Fault} (h : memRead a s = .error f) :
    f = .misalignedAccess a ∨ f = .unmappedAccess a .load ∨ f = .undefinedRead a := by
  unfold memRead at h
  (repeat' split at h) <;> cases h <;> simp

/-- The faults of a store (42_load_store.md R142). -/
theorem memWrite_error {a v : Word} {s : State} {f : Fault} (h : memWrite a v s = .error f) :
    f = .misalignedAccess a ∨ f = .unmappedAccess a .store := by
  unfold memWrite at h
  (repeat' split at h) <;> cases h <;> simp

/-- Settles O38: `LW` and `SW` end as their access does, every other instruction with a next state written out. -/
theorem onlyLoadsAndStoresStop : Obligations.OnlyLoadsAndStoresStop := by
  intro i s
  cases i
  case lw rd rs1 imm =>
    cases hm : memRead (s.readReg rs1 + sext32 imm) s with
    | ok p => exact .inl ⟨_, exec_lw_of_ok hm⟩
    | error f =>
      refine .inr (.inl ⟨rd, rs1, imm, rfl, ?_⟩)
      rw [exec_lw_of_error hm]
      simpa using memRead_error hm
  case sw rs1 rs2 imm =>
    cases hm : memWrite (s.readReg rs1 + sext32 imm) (s.readReg rs2) s with
    | ok t => exact .inl ⟨_, exec_sw_of_ok hm⟩
    | error f =>
      refine .inr (.inr ⟨rs1, rs2, imm, rfl, ?_⟩)
      rw [exec_sw_of_error hm]
      simpa using memWrite_error hm
  all_goals exact .inl ⟨_, rfl⟩

end Sys2Proof.Claims
end

section
/-! What a start holds (70_reset_and_hazards.md R291, R293) and what the first steps run: the image word for word, the invariant, and
the word that bytes in memory or a loader's word stand for (R298, R300). -/

namespace Sys2Proof.Machine

/-- Loading words below the end of RAM keeps a valid memory valid. -/
theorem valid_loadImage {im : Image} (h : ∀ e ∈ im, e.1 < Config.ramWords) {m : Memory} (hm : m.Valid) :
    Memory.Valid (im.foldl (fun m e => m.writeWord (4 * e.1) e.2) m) := by
  induction im generalizing m with
  | nil => exact hm
  | cons e im ih =>
    obtain ⟨he, him⟩ := List.forall_mem_cons.mp h
    have hram : 4 * e.1 < Config.ramBytes := Nat.mul_lt_mul_of_pos_left he (by decide)
    exact ih him (valid_writeWord _ e.2 (Nat.mul_mod_right 4 e.1) hram hm)

/-- Without marks the invariant is that of the memory. -/
theorem inv_of_no_marks {s : State} (hm : s.mem.Valid) (hs : s.stored = []) : s.Inv := by
  refine ⟨hm, ?_⟩
  simp [State.marksValid, hs]

/-! ### The word placed where the next fetch takes it (log entry 6) -/

theorem fetchable_iff (pc : Word) : fetchable pc = true ↔ pc.toNat % 4 = 0 ∧ pc.toNat < Config.ramBytes := by
  simp [fetchable, aligned_iff]

/-- A `pc` that no fetch can use gives way to the reset address. -/
theorem placeAtFetch_cases (v : Word) (s : State) :
    ∃ t : State, fetchable t.pc = true ∧ placeAtFetch v s = loadWordAt t.pc v t ∧ (fetchable s.pc = true → t = s) := by
  unfold placeAtFetch
  by_cases h : fetchable s.pc = true
  · exact ⟨s, h, by rw [if_pos h], fun _ => rfl⟩
  · have hreset : fetchable Config.resetPc = true := by decide
    exact ⟨s.setPc Config.resetPc, hreset, by rw [if_neg h], fun h' => absurd h' h⟩

/-- The loaded word holds a value and bears no mark. -/
theorem fetch_loadWordAt {s : State} (h : fetchable s.pc = true) (v : Word) : fetch (loadWordAt s.pc v s) = .ok v := by
  obtain ⟨haligned, hram⟩ := (fetchable_iff s.pc).mp h
  exact fetch_ok_iff.mpr ⟨(aligned_iff _).mpr haligned, hram, readWord_writeWord_same _ _ _,
    fun hmark => (mem_removeMark.mp hmark).2 rfl⟩

theorem fetch_placeAtFetch (v : Word) (s : State) : fetch (placeAtFetch v s) = .ok v := by
  obtain ⟨t, ht, hplaced, -⟩ := placeAtFetch_cases v s
  rw [hplaced]
  exact fetch_loadWordAt ht v

end Sys2Proof.Machine

namespace Sys2Proof

/-- Four bytes decode as their word does. -/
theorem decodeWord_of_decodeBytes {b0 b1 b2 b3 : Byte} {i : Instr} {rest : List Byte}
    (h : decodeBytes [b0, b1, b2, b3] = .ok (i, rest)) : decodeWord (wordOfBytes b0 b1 b2 b3) = .ok i := by
  rw [decodeBytes] at h
  cases hd : decodeWord (wordOfBytes b0 b1 b2 b3) with
  | error e => simp [hd] at h
  | ok j =>
    simp only [hd, Except.ok.injEq, Prod.mk.injEq] at h
    obtain ⟨rfl, -⟩ := h
    rfl

theorem decodeWord_of_decodeTableWord {nbits w : Nat} {i : Instr} (h : decodeTableWord nbits w = some i) :
    decodeWord (tableWord nbits w) = .ok i := by
  unfold decodeTableWord at h
  split at h
  next j rest hbytes =>
    have hd := decodeWord_of_decodeBytes hbytes
    rwa [Machine.wordOfBytes_bytesOfWord, Option.some.inj h] at hd
  next => cases h

end Sys2Proof

namespace Sys2Proof.Claims

open Sys2Proof.Machine

/-- Settles O7: the entry of the image, whether it has one or not. -/
theorem imageLoadsWordForWord : Obligations.ImageLoadsWordForWord := fun _ him i => readWord_imageMemory him i

/-- Settles O14: the image's words keep the empty memory valid, and reset leaves no mark. -/
theorem loadedStartMeetsInvariant : Obligations.LoadedStartMeetsInvariant := fun _ _ him =>
  inv_of_no_marks (valid_loadImage him.2 valid_empty) rfl

/-- Settles O13: the reset state is a start with the empty image. -/
theorem resetMeetsInvariant : Obligations.ResetMeetsInvariant := loadedStartMeetsInvariant Boot.blank [] imageValid_nil

/-- Settles O6: the fields are the start's, and the first step of the start without an image finds no entry 16. -/
theorem stateAfterReset : Obligations.StateAfterReset := by
  obtain ⟨-, -, -, hnone⟩ := firstInstructionIsImageEntry16 Boot.blank [] imageValid_nil
  exact ⟨fun b => ⟨rfl, fun _ => rfl, rfl, rfl, rfl, rfl, rfl, rfl⟩, rfl, fun _ => rfl, hnone (imageEntry_nil 16)⟩

/-- Settles O9: the fetch reads the word of the four bytes, which decodes as they do. -/
theorem stepRunsDecodedInstruction : Obligations.StepRunsDecodedInstruction := by
  intro s b0 b1 b2 b3 i ha hr hmark h0 h1 h2 h3 hd
  have hword : s.mem.readWord s.pc.toNat = some (wordOfBytes b0 b1 b2 b3) := by
    simp [Memory.readWord, h0, h1, h2, h3]
  have hf : fetch s = .ok (wordOfBytes b0 b1 b2 b3) :=
    fetch_ok_iff.mpr ⟨(aligned_iff _).mpr ha, hr, hword, hmark⟩
  exact step_of_decode hf (decodeWord_of_decodeBytes hd)

/-- Settles O10: the placed word is the one fetched, and at a fetchable `pc` placing it is one word's store. -/
theorem placedWordRunsNext : Obligations.PlacedWordRunsNext := by
  intro s w i hd
  refine ⟨step_of_decode (fetch_placeAtFetch _ s) (decodeWord_of_decodeTableWord hd), fun ha hr => ?_⟩
  obtain ⟨t, -, hplaced, ht⟩ := placeAtFetch_cases (tableWord 32 w) s
  obtain rfl := ht ((fetchable_iff s.pc).mpr ⟨ha, hr⟩)
  rw [State.withFetchWord, hplaced]
  exact ⟨rfl, rfl, fun a h => readByte_writeWord_other _ _ a _ h⟩

/-- A word that is an instruction's decodes to it. -/
theorem decodeWord_of_encode {i : Instr} {w : Word} (h : encode i = w) : decodeWord w = .ok i :=
  h ▸ decodeWord_encode i

/-- Settles O1: each word is that of its instruction. -/
theorem specWordsDecode : Obligations.SpecWordsDecode := by
  refine ⟨?_, ?_, ?_, ?_, ?_, ?_, ?_, ?_, ?_, ?_, ?_, ?_⟩ <;> exact decodeWord_of_encode (by decide)

end Sys2Proof.Claims
end

section
/-! The inputs to come are looked at by loads from `KEY` and `SWITCH` alone (70_reset_and_hazards.md R298, R300): any other access,
instruction or step answers the same with other inputs, and leaves them as they are. -/

namespace Sys2Proof.Claims

open Sys2Proof.Machine

section
variable (ks : List (BitVec 4)) (ws : List (BitVec 10)) (kd wd : Nat) (s : State)

theorem memRead_withInputs {a : Word} (hk : a ≠ 0xF0000010#32) (hs : a ≠ 0xF0000014#32) :
    memRead a (withInputs ks ws kd wd s) = (memRead a s).map fun p => (p.1, withInputs ks ws kd wd p.2) := by
  have hmem : (withInputs ks ws kd wd s).mem = s.mem := rfl
  unfold memRead
  rw [hmem]
  cases misaligned a
  case true => rfl
  case false =>
    cases hr : regionOf a
    case ram => cases s.mem.readWord a.toNat <;> rfl
    case key => exact absurd ((regionOf_key_iff a).mp hr) hk
    case switch => exact absurd ((regionOf_switch_iff a).mp hr) hs
    all_goals rfl

theorem memWrite_withInputs (a v : Word) :
    memWrite a v (withInputs ks ws kd wd s) = (memWrite a v s).map (withInputs ks ws kd wd) := by
  unfold memWrite
  cases misaligned a
  case true => rfl
  case false => cases regionOf a <;> rfl

/-- An instruction that is no load from `KEY` or `SWITCH`. -/
theorem exec_withInputs {i : Instr} (h : ∀ rd rs1 imm, i = .lw rd rs1 imm →
      s.readReg rs1 + sext32 imm ≠ 0xF0000010#32 ∧ s.readReg rs1 + sext32 imm ≠ 0xF0000014#32) :
    exec i (withInputs ks ws kd wd s) = mapNext (withInputs ks ws kd wd) (exec i s) := by
  cases i
  case lw rd rs1 imm =>
    obtain ⟨hk, hs⟩ := h rd rs1 imm rfl
    have hread := memRead_withInputs ks ws kd wd s hk hs
    cases hm : memRead (s.readReg rs1 + sext32 imm) s with
    | ok p => rw [exec_lw_of_ok hm, exec_lw_of_ok (hread.trans (congrArg _ hm))]; rfl
    | error f => rw [exec_lw_of_error hm, exec_lw_of_error (hread.trans (congrArg _ hm))]; rfl
  case sw rs1 rs2 imm =>
    have hwrite := memWrite_withInputs ks ws kd wd s (s.readReg rs1 + sext32 imm) (s.readReg rs2)
    cases hm : memWrite (s.readReg rs1 + sext32 imm) (s.readReg rs2) s with
    | ok t => rw [exec_sw_of_ok hm, exec_sw_of_ok (hwrite.trans (congrArg _ hm))]; rfl
    | error f => rw [exec_sw_of_error hm, exec_sw_of_error (hwrite.trans (congrArg _ hm))]; rfl
  all_goals rfl

end

/-- Settles O42: a fetch looks at no input, and the instruction fetched is no device load. -/
theorem inputsEnterOnlyThroughDeviceLoads : Obligations.InputsEnterOnlyThroughDeviceLoads := by
  intro s ks ws kd wd h
  have hfetch : fetch (withInputs ks ws kd wd s) = fetch s := fetch_congr rfl rfl rfl
  cases hf : fetch s with
  | error f =>
    rw [step_of_fetch_error hf, step_of_fetch_error (hfetch.trans hf)]
    rfl
  | ok w =>
    cases hd : decodeWord w with
    | error e =>
      rw [step_of_decode_error hf hd, step_of_decode_error (hfetch.trans hf) hd]
      rfl
    | ok i =>
      rw [step_of_decode hf hd, step_of_decode (hfetch.trans hf) hd]
      exact exec_withInputs ks ws kd wd s fun rd rs1 imm hi => h w rd rs1 imm hf (hi ▸ hd)

end Sys2Proof.Claims
end

section
/-! The end of a run (70_reset_and_hazards.md R299): a branch to itself changes nothing, a `JAL` to itself writes its link once, and a
run finishes once. -/

namespace Sys2Proof.Claims

open Sys2Proof.Machine

/-- `BR -1` is a taken branch to its own address, which leaves the state as it is. -/
theorem exec_br_minus_one (s : State) : exec (.beq 6 6 0xFFFF#16) s = .next s := by
  have hback : 4#32 + 4#32 * sext32 0xFFFF#16 = 0#32 := by decide
  have htaken := branchOn_taken ((condHolds_eq_iff (s.readReg 6) (s.readReg 6)).mpr rfl) 0xFFFF#16 s
  rw [BitVec.add_assoc, hback, BitVec.add_zero] at htaken
  exact htaken

/-- Settles O43: the step at `BR -1` is the state itself. -/
theorem selfBranchEndsTheRun : Obligations.SelfBranchEndsTheRun := by
  intro s hf
  have hd : decodeWord 0x66FFFF16#32 = .ok (.beq 6 6 0xFFFF#16) := decodeWord_of_encode (by decide)
  have hloop : selfLoop s = true :=
    (selfLoop_iff s).mpr ⟨_, _, s, hf, hd, by decide, exec_br_minus_one s, rfl, exec_br_minus_one s⟩
  exact ⟨by simp [runOver, hloop], core_run_fixed ((step_of_decode hf hd).trans (exec_br_minus_one s))⟩

/-- What a self-loop at `t` can lead to: the same state, or the state with the link of a `JAL` to itself written. -/
inductive SameButLink (t : State) : State → Prop where
  | same : SameButLink t t
  | link {w : Word} {rd rs1 : RegIdx} {imm : Imm} {v : Word} {u : State} (fetched : fetch t = .ok w)
      (decoded : decodeWord w = .ok (.jal rd rs1 imm)) (writes : WritesOnly t u rd v t.pc) : SameButLink t u

theorem SameButLink.pc_eq {t u : State} (h : SameButLink t u) : u.pc = t.pc := by
  cases h with
  | same => rfl
  | link _ _ writes =>
    obtain ⟨-, -, hpc, -⟩ := writes
    exact hpc

theorem SameButLink.restSame {t u : State} (h : SameButLink t u) : RestSame t u := by
  cases h with
  | same => exact ⟨fun _ => rfl, rfl, rfl, rfl, rfl, rfl, rfl, rfl, rfl, rfl, rfl⟩
  | link _ _ writes =>
    obtain ⟨-, -, -, hrest⟩ := writes
    exact hrest

/-- A transfer to its own address: a branch writes `pc` alone, a `JAL` its link besides. -/
theorem transfer_to_itself {t u : State} {w : Word} {i : Instr} (hf : fetch t = .ok w) (hd : decodeWord w = .ok i)
    (hi : isTransfer i = true) (hu : exec i t = .next u) (hpc : u.pc = t.pc) : SameButLink t u := by
  simp only [isTransfer, Bool.or_eq_true, beq_iff_eq] at hi
  rcases hi with hbranch | hjal
  · obtain rfl := Host.Outcome.next.inj ((exec_branch hbranch t).symm.trans hu)
    rw [setPc_pc] at hpc
    rw [hpc]
    exact .same
  · obtain ⟨rd, rs1, imm, rfl⟩ := eq_jal_of_op hjal
    obtain rfl := Host.Outcome.next.inj ((exec_jal rd rs1 imm t).symm.trans hu)
    rw [setPc_pc] at hpc
    rw [hpc]
    exact .link hf hd (writesOnly_writeReg_setPc t rd _ _)

/-- From a self-loop every run completes, at the latest after one step in a state that stays. -/
theorem core_run_of_selfLoop {t : State} (h : selfLoop t = true) (n : Nat) :
    ∃ u, Sys2Proof.core.run n t = .next u ∧ SameButLink t u := by
  obtain ⟨w, i, u, hf, hd, hi, hu, hpc, hstays⟩ := (selfLoop_iff t).mp h
  have hlink : SameButLink t u := transfer_to_itself hf hd hi hu hpc
  obtain ⟨-, hmem, hstored, -⟩ := hlink.restSame
  have hfixed : step u = .next u := (step_of_decode ((fetch_congr hpc hmem hstored).trans hf) hd).trans hstays
  cases n with
  | zero => exact ⟨t, rfl, .same⟩
  | succ n =>
    refine ⟨u, ?_, hlink⟩
    rw [core_run_succ, step_of_decode hf hd, hu]
    exact core_run_fixed hfixed n

theorem runOver_iff {haltPc : Word} {t : State} : runOver haltPc t = true ↔ t.pc = haltPc ∧ selfLoop t = true := by
  simp [runOver]

/-- No finish comes before another: the later one would have passed `haltPc` on its way. -/
theorem finishesIn_le {haltPc : Word} {k k' : Nat} {s t t' : State} (h : FinishesIn haltPc k s t)
    (h' : FinishesIn haltPc k' s t') : k ≤ k' := by
  obtain ⟨-, -, hfirst⟩ := h
  obtain ⟨hrun', hover', -⟩ := h'
  obtain ⟨hpc', -⟩ := runOver_iff.mp hover'
  by_contra hlt
  exact hfirst k' (Nat.lt_of_not_le hlt) t' hrun' hpc'

/-- Settles O44: neither of two finishes comes before the other, and from the self-loop at `haltPc` a run leads to the same state or
to the one with the link written. -/
theorem finishedRunHasOneFinalState : Obligations.FinishedRunHasOneFinalState := by
  intro haltPc k s t h
  obtain ⟨hrun, hover, -⟩ := id h
  constructor
  · intro k' t' h'
    obtain rfl := Nat.le_antisymm (finishesIn_le h' h) (finishesIn_le h h')
    obtain ⟨hrun', -⟩ := h'
    exact ⟨rfl, Host.Outcome.next.inj (hrun'.symm.trans hrun)⟩
  · intro n
    obtain ⟨hpc, hloop⟩ := runOver_iff.mp hover
    obtain ⟨u, hstays, hlink⟩ := core_run_of_selfLoop hloop n
    refine ⟨u, hstays, hlink.pc_eq.trans hpc, hlink.restSame, ?_⟩
    cases hlink with
    | same => exact ⟨fun _ => rfl, fun _ _ _ _ _ _ _ _ => rfl⟩
    | link hf hd writes =>
      refine ⟨fun hno => absurd hd (hno _ _ _ _ hf), fun w rd rs1 imm hf' hd' => ?_⟩
      obtain ⟨-, hothers, -⟩ := writes
      obtain rfl := Except.ok.inj (hf.symm.trans hf')
      obtain ⟨rfl, -⟩ := Instr.jal.inj (Except.ok.inj (hd.symm.trans hd'))
      exact hothers

end Sys2Proof.Claims
end
